-- ==== Sys2Proof/Word.lean ====
section
/-! DEFINITION. The bit-vector types of the data the machine moves (spec/00_scope.md R10). -/

namespace Sys2Proof

/-- A 32-bit quantity: register contents, addresses, words of memory (00_scope R10, 10_state R20). -/
abbrev Word := BitVec 32

/-- A 16-bit quantity (00_scope R10). -/
abbrev Half := BitVec 16

/-- An 8-bit quantity, the unit of memory and of the instruction stream (00_scope R10, 20_memory R73). -/
abbrev Byte := BitVec 8

end Sys2Proof
end

