-- ==== Sys2Proof/Config.lean ====
section
/-! DEFINITION. The values the spec leaves open. None has a body that anything could evaluate: a statement that
holds, holds whatever these are. The Nat argument is the counter State.free, so that each use may differ. -/

namespace Sys2Proof.Config

/-- N, Z, V, C (bits 3 to 0) of the PSW saved by an integer zero-divide, invalid-descriptor or reserved-data-type
exception: any value (93_implementation_defined U14, 92_eei_decisions D15). Log 20. -/
opaque faultFlags : Nat → BitVec 4

/-- The V flag of a case 4 instruction in the one situation where the manual says it may not set
(93_implementation_defined U15, 41_arithmetic R243). Log 21. -/
opaque caseFourOverflow : Nat → Bool

/-- The final stack pointer of POPW with %sp as its destination: indeterminate (93_implementation_defined U6). Log 22. -/
opaque popStackPointer : Nat → Word

/-- r0 after INTACK with AVEC asserted and NMINT not asserted: indeterminate (93_implementation_defined U7). Log 23. -/
opaque intackAutoVector : Nat → Word

/-- Whether an instruction that reads %psw right after an instruction that set the flags sees the earlier flags
(93_implementation_defined U12, 70_reset_and_hazards R610). Log 24. -/
opaque staleFlags : Nat → Bool

/-- Whether an integer-overflow trap is taken one instruction late, chosen anew at each overflow
(93_implementation_defined U13, 60_exceptions R511). Log 25. -/
opaque overflowLate : Nat → Bool

/-- Whether the first trace test after an explicit change of PSW TE takes the trap: such a change may cause
unpredictable trace behavior (93_implementation_defined U8, 10_state R42). Log 31. -/
opaque traceTaken : Nat → Bool

/-- The byte a fetch from an address delivers while the cache contents are arbitrary, or none where the cache does
not hold that address (93_implementation_defined U9, 20_memory R108). Log 26. -/
opaque corruptByte : Nat → Word → Option Byte

/-- What r0 to r8, FP, AP and ISP (by number) hold after a reset: the sequence does not write them, and nothing is
promised of them (10_state R67, 93_implementation_defined U30). Log 32. -/
opaque resetRegister : Nat → BitVec 4 → Word

/-- The processor version number, in the range -128 to +127 (93_implementation_defined U38, 40_data_transfer R213).
Log 27. -/
opaque versionNumber : Byte

end Sys2Proof.Config
end

