-- ==== Sys2Proof/Syntax.lean ====
section
/-! DEFINITION. The instructions of spec/opcode_table.json, one constructor a row, and their operands
(spec/30_encoding.md). -/

namespace Sys2Proof

/-- The sixteen registers (10_state R21), number 0 (r0) to 15 (pc). -/
inductive Reg where
  | r0 | r1 | r2 | r3 | r4 | r5 | r6 | r7 | r8
  | fp | ap | psw | sp | pcbp | isp | pc
  deriving DecidableEq, Repr

/-- The six operand types (00_scope R10, 30_encoding R135, R142). -/
inductive OType where
  | ubyte | sbyte | uhalf | shalf | uword | sword
  deriving DecidableEq, Repr

/-- A datum embedded in an operand: a displacement or an immediate of one, two or four bytes
(30_encoding R136, R139). -/
inductive Datum where
  | byte (v : BitVec 8)
  | half (v : BitVec 16)
  | word (v : BitVec 32)
  deriving DecidableEq, Repr

/-- The addressing modes of 30_encoding R128. -/
inductive Mode where
  /-- Positive literal 0 to 63 (R129). -/
  | literal (v : BitVec 6)
  /-- Negative literal: descriptor Fv, value v - 16 (R130). -/
  | negLiteral (v : BitVec 4)
  /-- Immediate data of the length its descriptor fixes (R139). -/
  | immediate (d : Datum)
  /-- Register mode (R131). -/
  | register (r : Reg)
  /-- Register deferred mode (R132). -/
  | deferred (r : Reg)
  /-- FP short offset (R133). -/
  | fpOffset (n : BitVec 4)
  /-- AP short offset (R134). -/
  | apOffset (n : BitVec 4)
  /-- Displacement mode (R136). -/
  | displacement (d : Datum) (r : Reg)
  /-- Displacement deferred mode (R137). -/
  | displacementDeferred (d : Datum) (r : Reg)
  /-- Absolute mode (R140). -/
  | absolute (a : Word)
  /-- Absolute deferred mode (R141). -/
  | absoluteDeferred (a : Word)
  deriving DecidableEq, Repr

/-- One operand: an optional expanded type (30_encoding R142) and an addressing mode. -/
structure Operand where
  ty : Option OType := none
  mode : Mode
  deriving DecidableEq, Repr

/-- What an instruction uses an operand for (30_encoding R145, R146). The plain roles are those of the instructions
that forbid the expanded-operand type. -/
inductive Role where
  /-- The value is read. -/
  | src
  /-- A value is written; it may be read first. -/
  | dst
  /-- Only a memory mode is allowed: the effective address is what counts. -/
  | addr
  | srcPlain
  | dstPlain
  | addrPlain
  /-- The register list bound of SAVE and RESTORE (43_program_control R402, R403). -/
  | regList
  deriving DecidableEq, Repr

/-- The instructions. Six mnemonics are second names of an opcode (30_encoding R159): rgequ of rcc, bgeuh of bcch,
bgeub of bccb, rlssu of rcs, bluh of bcsh, blub of bcsb. BNEH, BNEB, BEH and BEB have two opcodes each: the
constructors with a number in their name are the ones at 0x66, 0x67, 0x6E, 0x6F. -/
inductive Instr where
  /-- SPOPRD, opcode 0x02 (44_coprocessor R439). -/
  | spoprd (word : Word) (src : Operand)
  /-- SPOPD2, opcode 0x03 (44_coprocessor R442). -/
  | spopd2 (word : Word) (src dst : Operand)
  /-- MOVAW, opcode 0x04 (40_data_transfer R206). -/
  | movaw (src dst : Operand)
  /-- SPOPRT, opcode 0x06 (44_coprocessor R440). -/
  | spoprt (word : Word) (src : Operand)
  /-- SPOPT2, opcode 0x07 (44_coprocessor R443). -/
  | spopt2 (word : Word) (src dst : Operand)
  /-- RET, opcode 0x08 (43_program_control R404). -/
  | ret
  /-- MOVTRW, opcode 0x0C (46_operating_system R488). -/
  | movtrw (src dst : Operand)
  /-- SAVE, opcode 0x10 (43_program_control R402). -/
  | save (reg : Operand)
  /-- SPOPWD, opcode 0x13 (44_coprocessor R445). -/
  | spopwd (word : Word) (dst : Operand)
  /-- EXTOP, opcode 0x14 (45_stack_misc R460). -/
  | extop
  /-- SPOPWT, opcode 0x17 (44_coprocessor R446). -/
  | spopwt (word : Word) (dst : Operand)
  /-- RESTORE, opcode 0x18 (43_program_control R403). -/
  | restore (reg : Operand)
  /-- SWAPWI, opcode 0x1C (40_data_transfer R216). -/
  | swapwi (dst : Operand)
  /-- SWAPHI, opcode 0x1E (40_data_transfer R215). -/
  | swaphi (dst : Operand)
  /-- SWAPBI, opcode 0x1F (40_data_transfer R214). -/
  | swapbi (dst : Operand)
  /-- POPW, opcode 0x20 (45_stack_misc R453). -/
  | popw (dst : Operand)
  /-- SPOPRS, opcode 0x22 (44_coprocessor R438). -/
  | spoprs (word : Word) (src : Operand)
  /-- SPOPS2, opcode 0x23 (44_coprocessor R441). -/
  | spops2 (word : Word) (src dst : Operand)
  /-- JMP, opcode 0x24 (43_program_control R378). -/
  | jmp (dst : Operand)
  /-- CFLUSH, opcode 0x27 (45_stack_misc R459). -/
  | cflush
  /-- TSTW, opcode 0x28 (42_logical R326). -/
  | tstw (src : Operand)
  /-- TSTH, opcode 0x2A (42_logical R325). -/
  | tsth (src : Operand)
  /-- TSTB, opcode 0x2B (42_logical R324). -/
  | tstb (src : Operand)
  /-- CALL, opcode 0x2C (43_program_control R401). -/
  | call (src dst : Operand)
  /-- BPT, opcode 0x2E (45_stack_misc R458). -/
  | bpt
  /-- WAIT, opcode 0x2F (46_operating_system R486). -/
  | wait
  /-- SPOP, opcode 0x32 (44_coprocessor R437). -/
  | spop (word : Word)
  /-- SPOPWS, opcode 0x33 (44_coprocessor R444). -/
  | spopws (word : Word) (dst : Operand)
  /-- JSB, opcode 0x34 (43_program_control R383). -/
  | jsb (dst : Operand)
  /-- BSBH, opcode 0x36 (43_program_control R382). -/
  | bsbh (disp : BitVec 16)
  /-- BSBB, opcode 0x37 (43_program_control R381). -/
  | bsbb (disp : BitVec 8)
  /-- BITW, opcode 0x38 (42_logical R330). -/
  | bitw (src1 src2 : Operand)
  /-- BITH, opcode 0x3A (42_logical R329). -/
  | bith (src1 src2 : Operand)
  /-- BITB, opcode 0x3B (42_logical R328). -/
  | bitb (src1 src2 : Operand)
  /-- CMPW, opcode 0x3C (42_logical R322). -/
  | cmpw (src1 src2 : Operand)
  /-- CMPH, opcode 0x3E (42_logical R321). -/
  | cmph (src1 src2 : Operand)
  /-- CMPB, opcode 0x3F (42_logical R320). -/
  | cmpb (src1 src2 : Operand)
  /-- RGEQ, opcode 0x40 (43_program_control R390). -/
  | rgeq
  /-- BGEH, opcode 0x42 (43_program_control R363). -/
  | bgeh (disp : BitVec 16)
  /-- BGEB, opcode 0x43 (43_program_control R362). -/
  | bgeb (disp : BitVec 8)
  /-- RGTR, opcode 0x44 (43_program_control R391). -/
  | rgtr
  /-- BGH, opcode 0x46 (43_program_control R361). -/
  | bgh (disp : BitVec 16)
  /-- BGB, opcode 0x47 (43_program_control R360). -/
  | bgb (disp : BitVec 8)
  /-- RLSS, opcode 0x48 (43_program_control R395). -/
  | rlss
  /-- BLH, opcode 0x4A (43_program_control R367). -/
  | blh (disp : BitVec 16)
  /-- BLB, opcode 0x4B (43_program_control R366). -/
  | blb (disp : BitVec 8)
  /-- RLEQ, opcode 0x4C (43_program_control R393). -/
  | rleq
  /-- BLEH, opcode 0x4E (43_program_control R369). -/
  | bleh (disp : BitVec 16)
  /-- BLEB, opcode 0x4F (43_program_control R368). -/
  | bleb (disp : BitVec 8)
  /-- RCC, opcode 0x50 (43_program_control R386). -/
  | rcc
  /-- RGEQU, opcode 0x50 (43_program_control R386). -/
  | rgequ
  /-- BCCH, opcode 0x52 (43_program_control R355). -/
  | bcch (disp : BitVec 16)
  /-- BGEUH, opcode 0x52 (43_program_control R355). -/
  | bgeuh (disp : BitVec 16)
  /-- BCCB, opcode 0x53 (43_program_control R354). -/
  | bccb (disp : BitVec 8)
  /-- BGEUB, opcode 0x53 (43_program_control R354). -/
  | bgeub (disp : BitVec 8)
  /-- RGTRU, opcode 0x54 (43_program_control R392). -/
  | rgtru
  /-- BGUH, opcode 0x56 (43_program_control R365). -/
  | bguh (disp : BitVec 16)
  /-- BGUB, opcode 0x57 (43_program_control R364). -/
  | bgub (disp : BitVec 8)
  /-- RCS, opcode 0x58 (43_program_control R387). -/
  | rcs
  /-- RLSSU, opcode 0x58 (43_program_control R387). -/
  | rlssu
  /-- BCSH, opcode 0x5A (43_program_control R357). -/
  | bcsh (disp : BitVec 16)
  /-- BLUH, opcode 0x5A (43_program_control R357). -/
  | bluh (disp : BitVec 16)
  /-- BCSB, opcode 0x5B (43_program_control R356). -/
  | bcsb (disp : BitVec 8)
  /-- BLUB, opcode 0x5B (43_program_control R356). -/
  | blub (disp : BitVec 8)
  /-- RLEQU, opcode 0x5C (43_program_control R394). -/
  | rlequ
  /-- BLEUH, opcode 0x5E (43_program_control R371). -/
  | bleuh (disp : BitVec 16)
  /-- BLEUB, opcode 0x5F (43_program_control R370). -/
  | bleub (disp : BitVec 8)
  /-- RVC, opcode 0x60 (43_program_control R398). -/
  | rvc
  /-- BVCH, opcode 0x62 (43_program_control R375). -/
  | bvch (disp : BitVec 16)
  /-- BVCB, opcode 0x63 (43_program_control R374). -/
  | bvcb (disp : BitVec 8)
  /-- RNEQU, opcode 0x64 (43_program_control R397). -/
  | rnequ
  /-- BNEH, opcode 0x66 (43_program_control R373). -/
  | bneh66 (disp : BitVec 16)
  /-- BNEB, opcode 0x67 (43_program_control R372). -/
  | bneb67 (disp : BitVec 8)
  /-- RVS, opcode 0x68 (43_program_control R399). -/
  | rvs
  /-- BVSH, opcode 0x6A (43_program_control R377). -/
  | bvsh (disp : BitVec 16)
  /-- BVSB, opcode 0x6B (43_program_control R376). -/
  | bvsb (disp : BitVec 8)
  /-- REQLU, opcode 0x6C (43_program_control R389). -/
  | reqlu
  /-- BEH, opcode 0x6E (43_program_control R359). -/
  | beh6e (disp : BitVec 16)
  /-- BEB, opcode 0x6F (43_program_control R358). -/
  | beb6f (disp : BitVec 8)
  /-- NOP, opcode 0x70 (45_stack_misc R455). -/
  | nop
  /-- NOP3, opcode 0x72 (45_stack_misc R457). -/
  | nop3
  /-- NOP2, opcode 0x73 (45_stack_misc R456). -/
  | nop2
  /-- RNEQ, opcode 0x74 (43_program_control R396). -/
  | rneq
  /-- BNEH, opcode 0x76 (43_program_control R373). -/
  | bneh (disp : BitVec 16)
  /-- BNEB, opcode 0x77 (43_program_control R372). -/
  | bneb (disp : BitVec 8)
  /-- RSB, opcode 0x78 (43_program_control R384). -/
  | rsb
  /-- BRH, opcode 0x7A (43_program_control R353). -/
  | brh (disp : BitVec 16)
  /-- BRB, opcode 0x7B (43_program_control R352). -/
  | brb (disp : BitVec 8)
  /-- REQL, opcode 0x7C (43_program_control R388). -/
  | reql
  /-- BEH, opcode 0x7E (43_program_control R359). -/
  | beh (disp : BitVec 16)
  /-- BEB, opcode 0x7F (43_program_control R358). -/
  | beb (disp : BitVec 8)
  /-- CLRW, opcode 0x80 (42_logical R334). -/
  | clrw (dst : Operand)
  /-- CLRH, opcode 0x82 (42_logical R333). -/
  | clrh (dst : Operand)
  /-- CLRB, opcode 0x83 (42_logical R332). -/
  | clrb (dst : Operand)
  /-- MOVW, opcode 0x84 (40_data_transfer R204). -/
  | movw (src dst : Operand)
  /-- MOVH, opcode 0x86 (40_data_transfer R203). -/
  | movh (src dst : Operand)
  /-- MOVB, opcode 0x87 (40_data_transfer R202). -/
  | movb (src dst : Operand)
  /-- MCOMW, opcode 0x88 (40_data_transfer R209). -/
  | mcomw (src dst : Operand)
  /-- MCOMH, opcode 0x8A (40_data_transfer R208). -/
  | mcomh (src dst : Operand)
  /-- MCOMB, opcode 0x8B (40_data_transfer R207). -/
  | mcomb (src dst : Operand)
  /-- MNEGW, opcode 0x8C (40_data_transfer R212). -/
  | mnegw (src dst : Operand)
  /-- MNEGH, opcode 0x8E (40_data_transfer R211). -/
  | mnegh (src dst : Operand)
  /-- MNEGB, opcode 0x8F (40_data_transfer R210). -/
  | mnegb (src dst : Operand)
  /-- INCW, opcode 0x90 (41_arithmetic R264). -/
  | incw (dst : Operand)
  /-- INCH, opcode 0x92 (41_arithmetic R263). -/
  | inch (dst : Operand)
  /-- INCB, opcode 0x93 (41_arithmetic R262). -/
  | incb (dst : Operand)
  /-- DECW, opcode 0x94 (41_arithmetic R267). -/
  | decw (dst : Operand)
  /-- DECH, opcode 0x96 (41_arithmetic R266). -/
  | dech (dst : Operand)
  /-- DECB, opcode 0x97 (41_arithmetic R265). -/
  | decb (dst : Operand)
  /-- ADDW2, opcode 0x9C (41_arithmetic R252). -/
  | addw2 (src dst : Operand)
  /-- ADDH2, opcode 0x9E (41_arithmetic R251). -/
  | addh2 (src dst : Operand)
  /-- ADDB2, opcode 0x9F (41_arithmetic R250). -/
  | addb2 (src dst : Operand)
  /-- PUSHW, opcode 0xA0 (45_stack_misc R451). -/
  | pushw (src : Operand)
  /-- MODW2, opcode 0xA4 (41_arithmetic R282). -/
  | modw2 (src dst : Operand)
  /-- MODH2, opcode 0xA6 (41_arithmetic R281). -/
  | modh2 (src dst : Operand)
  /-- MODB2, opcode 0xA7 (41_arithmetic R280). -/
  | modb2 (src dst : Operand)
  /-- MULW2, opcode 0xA8 (41_arithmetic R270). -/
  | mulw2 (src dst : Operand)
  /-- MULH2, opcode 0xAA (41_arithmetic R269). -/
  | mulh2 (src dst : Operand)
  /-- MULB2, opcode 0xAB (41_arithmetic R268). -/
  | mulb2 (src dst : Operand)
  /-- DIVW2, opcode 0xAC (41_arithmetic R276). -/
  | divw2 (src dst : Operand)
  /-- DIVH2, opcode 0xAE (41_arithmetic R275). -/
  | divh2 (src dst : Operand)
  /-- DIVB2, opcode 0xAF (41_arithmetic R274). -/
  | divb2 (src dst : Operand)
  /-- ORW2, opcode 0xB0 (42_logical R309). -/
  | orw2 (src dst : Operand)
  /-- ORH2, opcode 0xB2 (42_logical R308). -/
  | orh2 (src dst : Operand)
  /-- ORB2, opcode 0xB3 (42_logical R307). -/
  | orb2 (src dst : Operand)
  /-- XORW2, opcode 0xB4 (42_logical R315). -/
  | xorw2 (src dst : Operand)
  /-- XORH2, opcode 0xB6 (42_logical R314). -/
  | xorh2 (src dst : Operand)
  /-- XORB2, opcode 0xB7 (42_logical R313). -/
  | xorb2 (src dst : Operand)
  /-- ANDW2, opcode 0xB8 (42_logical R303). -/
  | andw2 (src dst : Operand)
  /-- ANDH2, opcode 0xBA (42_logical R302). -/
  | andh2 (src dst : Operand)
  /-- ANDB2, opcode 0xBB (42_logical R301). -/
  | andb2 (src dst : Operand)
  /-- SUBW2, opcode 0xBC (41_arithmetic R258). -/
  | subw2 (src dst : Operand)
  /-- SUBH2, opcode 0xBE (41_arithmetic R257). -/
  | subh2 (src dst : Operand)
  /-- SUBB2, opcode 0xBF (41_arithmetic R256). -/
  | subb2 (src dst : Operand)
  /-- ALSW3, opcode 0xC0 (41_arithmetic R286). -/
  | alsw3 (count src dst : Operand)
  /-- ARSW3, opcode 0xC4 (41_arithmetic R289). -/
  | arsw3 (count src dst : Operand)
  /-- ARSH3, opcode 0xC6 (41_arithmetic R288). -/
  | arsh3 (count src dst : Operand)
  /-- ARSB3, opcode 0xC7 (41_arithmetic R287). -/
  | arsb3 (count src dst : Operand)
  /-- INSFW, opcode 0xC8 (40_data_transfer R227). -/
  | insfw (width offset src dst : Operand)
  /-- INSFH, opcode 0xCA (40_data_transfer R226). -/
  | insfh (width offset src dst : Operand)
  /-- INSFB, opcode 0xCB (40_data_transfer R225). -/
  | insfb (width offset src dst : Operand)
  /-- EXTFW, opcode 0xCC (40_data_transfer R224). -/
  | extfw (width offset src dst : Operand)
  /-- EXTFH, opcode 0xCE (40_data_transfer R223). -/
  | extfh (width offset src dst : Operand)
  /-- EXTFB, opcode 0xCF (40_data_transfer R222). -/
  | extfb (width offset src dst : Operand)
  /-- LLSW3, opcode 0xD0 (42_logical R338). -/
  | llsw3 (count src dst : Operand)
  /-- LLSH3, opcode 0xD2 (42_logical R337). -/
  | llsh3 (count src dst : Operand)
  /-- LLSB3, opcode 0xD3 (42_logical R336). -/
  | llsb3 (count src dst : Operand)
  /-- LRSW3, opcode 0xD4 (42_logical R339). -/
  | lrsw3 (count src dst : Operand)
  /-- ROTW, opcode 0xD8 (42_logical R340). -/
  | rotw (count src dst : Operand)
  /-- ADDW3, opcode 0xDC (41_arithmetic R255). -/
  | addw3 (src1 src2 dst : Operand)
  /-- ADDH3, opcode 0xDE (41_arithmetic R254). -/
  | addh3 (src1 src2 dst : Operand)
  /-- ADDB3, opcode 0xDF (41_arithmetic R253). -/
  | addb3 (src1 src2 dst : Operand)
  /-- PUSHAW, opcode 0xE0 (45_stack_misc R452). -/
  | pushaw (src : Operand)
  /-- MODW3, opcode 0xE4 (41_arithmetic R285). -/
  | modw3 (src1 src2 dst : Operand)
  /-- MODH3, opcode 0xE6 (41_arithmetic R284). -/
  | modh3 (src1 src2 dst : Operand)
  /-- MODB3, opcode 0xE7 (41_arithmetic R283). -/
  | modb3 (src1 src2 dst : Operand)
  /-- MULW3, opcode 0xE8 (41_arithmetic R273). -/
  | mulw3 (src1 src2 dst : Operand)
  /-- MULH3, opcode 0xEA (41_arithmetic R272). -/
  | mulh3 (src1 src2 dst : Operand)
  /-- MULB3, opcode 0xEB (41_arithmetic R271). -/
  | mulb3 (src1 src2 dst : Operand)
  /-- DIVW3, opcode 0xEC (41_arithmetic R279). -/
  | divw3 (src1 src2 dst : Operand)
  /-- DIVH3, opcode 0xEE (41_arithmetic R278). -/
  | divh3 (src1 src2 dst : Operand)
  /-- DIVB3, opcode 0xEF (41_arithmetic R277). -/
  | divb3 (src1 src2 dst : Operand)
  /-- ORW3, opcode 0xF0 (42_logical R312). -/
  | orw3 (src1 src2 dst : Operand)
  /-- ORH3, opcode 0xF2 (42_logical R311). -/
  | orh3 (src1 src2 dst : Operand)
  /-- ORB3, opcode 0xF3 (42_logical R310). -/
  | orb3 (src1 src2 dst : Operand)
  /-- XORW3, opcode 0xF4 (42_logical R318). -/
  | xorw3 (src1 src2 dst : Operand)
  /-- XORH3, opcode 0xF6 (42_logical R317). -/
  | xorh3 (src1 src2 dst : Operand)
  /-- XORB3, opcode 0xF7 (42_logical R316). -/
  | xorb3 (src1 src2 dst : Operand)
  /-- ANDW3, opcode 0xF8 (42_logical R306). -/
  | andw3 (src1 src2 dst : Operand)
  /-- ANDH3, opcode 0xFA (42_logical R305). -/
  | andh3 (src1 src2 dst : Operand)
  /-- ANDB3, opcode 0xFB (42_logical R304). -/
  | andb3 (src1 src2 dst : Operand)
  /-- SUBW3, opcode 0xFC (41_arithmetic R261). -/
  | subw3 (src1 src2 dst : Operand)
  /-- SUBH3, opcode 0xFE (41_arithmetic R260). -/
  | subh3 (src1 src2 dst : Operand)
  /-- SUBB3, opcode 0xFF (41_arithmetic R259). -/
  | subb3 (src1 src2 dst : Operand)
  /-- MVERNO, opcode 0x3009 (40_data_transfer R213). -/
  | mverno
  /-- ENBVJMP, opcode 0x300D (46_operating_system R484). -/
  | enbvjmp
  /-- DISVJMP, opcode 0x3013 (46_operating_system R485). -/
  | disvjmp
  /-- MOVBLW, opcode 0x3019 (40_data_transfer R218). -/
  | movblw
  /-- STREND, opcode 0x301F (40_data_transfer R220). -/
  | strend
  /-- INTACK, opcode 0x302F (46_operating_system R487). -/
  | intack
  /-- STRCPY, opcode 0x3035 (40_data_transfer R219). -/
  | strcpy
  /-- RETG, opcode 0x3045 (46_operating_system R474). -/
  | retg
  /-- GATE, opcode 0x3061 (46_operating_system R472). -/
  | gate
  /-- CALLPS, opcode 0x30AC (46_operating_system R479). -/
  | callps
  /-- RETPS, opcode 0x30C8 (46_operating_system R480). -/
  | retps
  deriving DecidableEq, Repr

end Sys2Proof
end

