-- ==== Sys2Proof/WellFormed.lean ====
section
/-! DEFINITION. Which instructions the encoding can express and the processor accepts: the restrictions of
spec/30_encoding.md R128, R145, R146, R150 and of the instruction rules on the modes of their operands. -/

namespace Sys2Proof

/-- The register number fits the mode's descriptor row (30_encoding R128): register mode takes 0 to 14, register
deferred mode 0 to 10 and 12 to 14, the short offsets 0 to 14, the displacement modes every register but 11. -/
def Mode.wellFormed : Mode → Bool
  | .register r => r != .pc
  | .deferred r => r != .psw && r != .pc
  | .fpOffset n => n != 15
  | .apOffset n => n != 15
  | .displacement _ r => r != .psw
  | .displacementDeferred _ r => r != .psw
  | _ => true

/-- Literal and immediate modes: the operand is a constant of the instruction (30_encoding R129, R130, R139). -/
def Mode.isConstant : Mode → Bool
  | .literal _ => true
  | .negLiteral _ => true
  | .immediate _ => true
  | _ => false

/-- Register mode (30_encoding R131). -/
def Mode.isRegister : Mode → Bool
  | .register _ => true
  | _ => false

/-- A register number below 10: r0 to r8 and fp (43_program_control R402, R403). -/
def Reg.saveable : Reg → Bool
  | .ap | .psw | .sp | .pcbp | .isp | .pc => false
  | _ => true

/-- The modes a role takes (30_encoding R145; SAVE and RESTORE: 43_program_control R402, R403). -/
def Role.allowsMode : Role → Mode → Bool
  | .src, _ | .srcPlain, _ => true
  | .dst, m | .dstPlain, m => !m.isConstant
  | .addr, m | .addrPlain, m => !m.isConstant && !m.isRegister
  | .regList, .register r => r.saveable
  | .regList, _ => false

/-- Whether a role takes the expanded-operand type (30_encoding R146). -/
def Role.allowsType : Role → Bool
  | .src | .dst | .addr => true
  | .srcPlain | .dstPlain | .addrPlain | .regList => false

/-- An operand the processor accepts in a role. -/
def Operand.wellFormed (role : Role) (o : Operand) : Bool :=
  o.mode.wellFormed && role.allowsMode o.mode && (o.ty.isNone || role.allowsType)

/-- The descriptor-format operands of an instruction, in the order of its encoding, with their roles. -/
def Instr.operands : Instr → List (Role × Operand)
  | .spoprd _ src => [(.addrPlain, src)]
  | .spopd2 _ src dst => [(.addrPlain, src), (.addrPlain, dst)]
  | .movaw src dst => [(.addr, src), (.dst, dst)]
  | .spoprt _ src => [(.addrPlain, src)]
  | .spopt2 _ src dst => [(.addrPlain, src), (.addrPlain, dst)]
  | .ret => []
  | .movtrw src dst => [(.addr, src), (.dst, dst)]
  | .save reg => [(.regList, reg)]
  | .spopwd _ dst => [(.addrPlain, dst)]
  | .extop => []
  | .spopwt _ dst => [(.addrPlain, dst)]
  | .restore reg => [(.regList, reg)]
  | .swapwi dst => [(.addrPlain, dst)]
  | .swaphi dst => [(.addrPlain, dst)]
  | .swapbi dst => [(.addrPlain, dst)]
  | .popw dst => [(.dstPlain, dst)]
  | .spoprs _ src => [(.addrPlain, src)]
  | .spops2 _ src dst => [(.addrPlain, src), (.addrPlain, dst)]
  | .jmp dst => [(.addr, dst)]
  | .cflush => []
  | .tstw src => [(.src, src)]
  | .tsth src => [(.src, src)]
  | .tstb src => [(.src, src)]
  | .call src dst => [(.addrPlain, src), (.addrPlain, dst)]
  | .bpt => []
  | .wait => []
  | .spop _ => []
  | .spopws _ dst => [(.addrPlain, dst)]
  | .jsb dst => [(.addrPlain, dst)]
  | .bsbh _ => []
  | .bsbb _ => []
  | .bitw src1 src2 => [(.src, src1), (.src, src2)]
  | .bith src1 src2 => [(.src, src1), (.src, src2)]
  | .bitb src1 src2 => [(.src, src1), (.src, src2)]
  | .cmpw src1 src2 => [(.src, src1), (.src, src2)]
  | .cmph src1 src2 => [(.src, src1), (.src, src2)]
  | .cmpb src1 src2 => [(.src, src1), (.src, src2)]
  | .rgeq => []
  | .bgeh _ => []
  | .bgeb _ => []
  | .rgtr => []
  | .bgh _ => []
  | .bgb _ => []
  | .rlss => []
  | .blh _ => []
  | .blb _ => []
  | .rleq => []
  | .bleh _ => []
  | .bleb _ => []
  | .rcc => []
  | .rgequ => []
  | .bcch _ => []
  | .bgeuh _ => []
  | .bccb _ => []
  | .bgeub _ => []
  | .rgtru => []
  | .bguh _ => []
  | .bgub _ => []
  | .rcs => []
  | .rlssu => []
  | .bcsh _ => []
  | .bluh _ => []
  | .bcsb _ => []
  | .blub _ => []
  | .rlequ => []
  | .bleuh _ => []
  | .bleub _ => []
  | .rvc => []
  | .bvch _ => []
  | .bvcb _ => []
  | .rnequ => []
  | .bneh66 _ => []
  | .bneb67 _ => []
  | .rvs => []
  | .bvsh _ => []
  | .bvsb _ => []
  | .reqlu => []
  | .beh6e _ => []
  | .beb6f _ => []
  | .nop => []
  | .nop3 => []
  | .nop2 => []
  | .rneq => []
  | .bneh _ => []
  | .bneb _ => []
  | .rsb => []
  | .brh _ => []
  | .brb _ => []
  | .reql => []
  | .beh _ => []
  | .beb _ => []
  | .clrw dst => [(.dst, dst)]
  | .clrh dst => [(.dst, dst)]
  | .clrb dst => [(.dst, dst)]
  | .movw src dst => [(.src, src), (.dst, dst)]
  | .movh src dst => [(.src, src), (.dst, dst)]
  | .movb src dst => [(.src, src), (.dst, dst)]
  | .mcomw src dst => [(.src, src), (.dst, dst)]
  | .mcomh src dst => [(.src, src), (.dst, dst)]
  | .mcomb src dst => [(.src, src), (.dst, dst)]
  | .mnegw src dst => [(.src, src), (.dst, dst)]
  | .mnegh src dst => [(.src, src), (.dst, dst)]
  | .mnegb src dst => [(.src, src), (.dst, dst)]
  | .incw dst => [(.dst, dst)]
  | .inch dst => [(.dst, dst)]
  | .incb dst => [(.dst, dst)]
  | .decw dst => [(.dst, dst)]
  | .dech dst => [(.dst, dst)]
  | .decb dst => [(.dst, dst)]
  | .addw2 src dst => [(.src, src), (.dst, dst)]
  | .addh2 src dst => [(.src, src), (.dst, dst)]
  | .addb2 src dst => [(.src, src), (.dst, dst)]
  | .pushw src => [(.srcPlain, src)]
  | .modw2 src dst => [(.src, src), (.dst, dst)]
  | .modh2 src dst => [(.src, src), (.dst, dst)]
  | .modb2 src dst => [(.src, src), (.dst, dst)]
  | .mulw2 src dst => [(.src, src), (.dst, dst)]
  | .mulh2 src dst => [(.src, src), (.dst, dst)]
  | .mulb2 src dst => [(.src, src), (.dst, dst)]
  | .divw2 src dst => [(.src, src), (.dst, dst)]
  | .divh2 src dst => [(.src, src), (.dst, dst)]
  | .divb2 src dst => [(.src, src), (.dst, dst)]
  | .orw2 src dst => [(.src, src), (.dst, dst)]
  | .orh2 src dst => [(.src, src), (.dst, dst)]
  | .orb2 src dst => [(.src, src), (.dst, dst)]
  | .xorw2 src dst => [(.src, src), (.dst, dst)]
  | .xorh2 src dst => [(.src, src), (.dst, dst)]
  | .xorb2 src dst => [(.src, src), (.dst, dst)]
  | .andw2 src dst => [(.src, src), (.dst, dst)]
  | .andh2 src dst => [(.src, src), (.dst, dst)]
  | .andb2 src dst => [(.src, src), (.dst, dst)]
  | .subw2 src dst => [(.src, src), (.dst, dst)]
  | .subh2 src dst => [(.src, src), (.dst, dst)]
  | .subb2 src dst => [(.src, src), (.dst, dst)]
  | .alsw3 count src dst => [(.src, count), (.src, src), (.dst, dst)]
  | .arsw3 count src dst => [(.src, count), (.src, src), (.dst, dst)]
  | .arsh3 count src dst => [(.src, count), (.src, src), (.dst, dst)]
  | .arsb3 count src dst => [(.src, count), (.src, src), (.dst, dst)]
  | .insfw width offset src dst => [(.src, width), (.src, offset), (.src, src), (.dst, dst)]
  | .insfh width offset src dst => [(.src, width), (.src, offset), (.src, src), (.dst, dst)]
  | .insfb width offset src dst => [(.src, width), (.src, offset), (.src, src), (.dst, dst)]
  | .extfw width offset src dst => [(.src, width), (.src, offset), (.src, src), (.dst, dst)]
  | .extfh width offset src dst => [(.src, width), (.src, offset), (.src, src), (.dst, dst)]
  | .extfb width offset src dst => [(.src, width), (.src, offset), (.src, src), (.dst, dst)]
  | .llsw3 count src dst => [(.src, count), (.src, src), (.dst, dst)]
  | .llsh3 count src dst => [(.src, count), (.src, src), (.dst, dst)]
  | .llsb3 count src dst => [(.src, count), (.src, src), (.dst, dst)]
  | .lrsw3 count src dst => [(.src, count), (.src, src), (.dst, dst)]
  | .rotw count src dst => [(.src, count), (.src, src), (.dst, dst)]
  | .addw3 src1 src2 dst => [(.src, src1), (.src, src2), (.dst, dst)]
  | .addh3 src1 src2 dst => [(.src, src1), (.src, src2), (.dst, dst)]
  | .addb3 src1 src2 dst => [(.src, src1), (.src, src2), (.dst, dst)]
  | .pushaw src => [(.addrPlain, src)]
  | .modw3 src1 src2 dst => [(.src, src1), (.src, src2), (.dst, dst)]
  | .modh3 src1 src2 dst => [(.src, src1), (.src, src2), (.dst, dst)]
  | .modb3 src1 src2 dst => [(.src, src1), (.src, src2), (.dst, dst)]
  | .mulw3 src1 src2 dst => [(.src, src1), (.src, src2), (.dst, dst)]
  | .mulh3 src1 src2 dst => [(.src, src1), (.src, src2), (.dst, dst)]
  | .mulb3 src1 src2 dst => [(.src, src1), (.src, src2), (.dst, dst)]
  | .divw3 src1 src2 dst => [(.src, src1), (.src, src2), (.dst, dst)]
  | .divh3 src1 src2 dst => [(.src, src1), (.src, src2), (.dst, dst)]
  | .divb3 src1 src2 dst => [(.src, src1), (.src, src2), (.dst, dst)]
  | .orw3 src1 src2 dst => [(.src, src1), (.src, src2), (.dst, dst)]
  | .orh3 src1 src2 dst => [(.src, src1), (.src, src2), (.dst, dst)]
  | .orb3 src1 src2 dst => [(.src, src1), (.src, src2), (.dst, dst)]
  | .xorw3 src1 src2 dst => [(.src, src1), (.src, src2), (.dst, dst)]
  | .xorh3 src1 src2 dst => [(.src, src1), (.src, src2), (.dst, dst)]
  | .xorb3 src1 src2 dst => [(.src, src1), (.src, src2), (.dst, dst)]
  | .andw3 src1 src2 dst => [(.src, src1), (.src, src2), (.dst, dst)]
  | .andh3 src1 src2 dst => [(.src, src1), (.src, src2), (.dst, dst)]
  | .andb3 src1 src2 dst => [(.src, src1), (.src, src2), (.dst, dst)]
  | .subw3 src1 src2 dst => [(.src, src1), (.src, src2), (.dst, dst)]
  | .subh3 src1 src2 dst => [(.src, src1), (.src, src2), (.dst, dst)]
  | .subb3 src1 src2 dst => [(.src, src1), (.src, src2), (.dst, dst)]
  | .mverno => []
  | .enbvjmp => []
  | .disvjmp => []
  | .movblw => []
  | .strend => []
  | .intack => []
  | .strcpy => []
  | .retg => []
  | .gate => []
  | .callps => []
  | .retps => []

/-- An instruction all of whose operands are accepted. -/
def Instr.wellFormed (i : Instr) : Bool := i.operands.all fun p => p.2.wellFormed p.1

end Sys2Proof
end

