-- ==== Sys2Proof/Decode.lean ====
section
/-! DEFINITION. The decoder, total on any bytes, and after it the encoder (spec/30_encoding.md). -/

namespace Sys2Proof

/-- The instruction stream as the decoder sees it: bytes at increasing addresses. none is a byte whose fetch ends in
a memory exception; running off the end of the list counts as the same (30_encoding R121). -/
abbrev Stream := List (Option Byte)

/-- Why the decoder reads no instruction; the machine raises the exception of the same name (30_encoding R152). -/
inductive DecodeError where
  /-- An unassigned opcode (R158). -/
  | illegalOpcode
  /-- A reserved type byte (R144). -/
  | reservedDataType
  /-- An operand the instruction does not allow, or a type byte after a type byte (R145, R146, R150). -/
  | invalidDescriptor
  /-- A needed byte could not be fetched (R121). -/
  | fetchFault
  deriving DecidableEq, Repr

/-- What a parser answers: what it read and the rest of the stream. -/
abbrev Parse (α : Type) := Except DecodeError (α × Stream)

/-! ## Numbers and names -/

/-- The register of a 4-bit register field (10_state R21). -/
def Reg.ofNum (n : BitVec 4) : Reg :=
  match n.toNat with
  | 0 => .r0 | 1 => .r1 | 2 => .r2 | 3 => .r3 | 4 => .r4 | 5 => .r5 | 6 => .r6 | 7 => .r7
  | 8 => .r8 | 9 => .fp | 10 => .ap | 11 => .psw | 12 => .sp | 13 => .pcbp | 14 => .isp | _ => .pc

/-- The number of a register (10_state R21). -/
def Reg.num : Reg → BitVec 4
  | .r0 => 0 | .r1 => 1 | .r2 => 2 | .r3 => 3 | .r4 => 4 | .r5 => 5 | .r6 => 6 | .r7 => 7
  | .r8 => 8 | .fp => 9 | .ap => 10 | .psw => 11 | .sp => 12 | .pcbp => 13 | .isp => 14 | .pc => 15

/-- The type of an expanded-type byte's register field, none for a reserved one (30_encoding R142, R144). -/
def OType.ofNum (n : BitVec 4) : Option OType :=
  match n.toNat with
  | 0 => some .uword | 2 => some .uhalf | 3 => some .ubyte
  | 4 => some .sword | 6 => some .shalf | 7 => some .sbyte
  | _ => none

/-- The register field of an expanded-type byte (30_encoding R142). -/
def OType.num : OType → BitVec 4
  | .uword => 0 | .uhalf => 2 | .ubyte => 3 | .sword => 4 | .shalf => 6 | .sbyte => 7

/-! ## Bytes of the stream -/

/-- The next byte. -/
def takeByte : Stream → Parse Byte
  | some b :: rest => .ok (b, rest)
  | _ => .error .fetchFault

/-- Parse on with what was read. -/
def Parse.andThen {α β : Type} (p : Parse α) (f : α → Stream → Parse β) : Parse β :=
  match p with
  | .ok (x, s) => f x s
  | .error e => .error e

/-- The next two bytes, low-order byte first (30_encoding R125, R126). -/
def takeHalf (s : Stream) : Parse Half :=
  (takeByte s).andThen fun b0 s => (takeByte s).andThen fun b1 s => .ok (b1 ++ b0, s)

/-- The next four bytes, low-order byte first (30_encoding R125, R126). -/
def takeWord (s : Stream) : Parse Word :=
  (takeHalf s).andThen fun h0 s => (takeHalf s).andThen fun h1 s => .ok (h1 ++ h0, s)

/-! ## Operands -/

/-- Apply a mode to what a parser read. -/
def Parse.mode {α : Type} (p : Parse α) (f : α → Mode) : Parse Mode := p.andThen fun x s => .ok (f x, s)

/-- The mode of a descriptor byte mmmm ++ rrrr that is no expanded-type byte, with the data bytes it needs
(30_encoding R128). The reserved combinations of R150 (a) and (b) are read as modes with register 11, which no
instruction accepts (Role.accepts); an expanded-type byte here is R150 (c). -/
def parseMode (d : Byte) (s : Stream) : Parse Mode :=
  let rrrr := d.extractLsb' 0 4
  let r := Reg.ofNum rrrr
  match (d.extractLsb' 4 4).toNat with
  | 0 | 1 | 2 | 3 => .ok (.literal (d.extractLsb' 0 6), s)
  | 4 => if rrrr = 15 then (takeWord s).mode fun v => .immediate (.word v) else .ok (.register r, s)
  | 5 => if rrrr = 15 then (takeHalf s).mode fun v => .immediate (.half v) else .ok (.deferred r, s)
  | 6 => if rrrr = 15 then (takeByte s).mode fun v => .immediate (.byte v) else .ok (.fpOffset rrrr, s)
  | 7 => if rrrr = 15 then (takeWord s).mode fun a => .absolute a else .ok (.apOffset rrrr, s)
  | 8 => (takeWord s).mode fun v => .displacement (.word v) r
  | 9 => (takeWord s).mode fun v => .displacementDeferred (.word v) r
  | 10 => (takeHalf s).mode fun v => .displacement (.half v) r
  | 11 => (takeHalf s).mode fun v => .displacementDeferred (.half v) r
  | 12 => (takeByte s).mode fun v => .displacement (.byte v) r
  | 13 => (takeByte s).mode fun v => .displacementDeferred (.byte v) r
  | 14 =>
    if rrrr = 15 then (takeWord s).mode fun a => .absoluteDeferred a
    else if (OType.ofNum rrrr).isSome then .error .invalidDescriptor else .error .reservedDataType
  | _ => .ok (.negLiteral rrrr, s)

/-- A first descriptor byte that names an expanded type, legal or reserved: E0 to EE (30_encoding R142, R144). -/
def isTypeByte (d : Byte) : Bool := d.extractLsb' 4 4 == 14 && d.extractLsb' 0 4 != 15

/-- One operand (30_encoding R128, R142). -/
def parseOperand (s : Stream) : Parse Operand :=
  (takeByte s).andThen fun d s =>
    if isTypeByte d then
      match OType.ofNum (d.extractLsb' 0 4) with
      | none => .error .reservedDataType
      | some t => (takeByte s).andThen fun d s => (parseMode d s).andThen fun m s => .ok ({ ty := some t, mode := m }, s)
    else (parseMode d s).andThen fun m s => .ok ({ ty := none, mode := m }, s)

/-- Whether the processor accepts an operand in a role; if not it raises InvalidDescriptor (30_encoding R145, R146,
R150). What SAVE and RESTORE do with an operand that is no register from r0 to r9 is their own business
(43_program_control R402), except for the descriptors 5B, 8B, 9B, AB, BB, CB and DB, a memory mode with register 11: there
R150 raises InvalidDescriptor as the operand is decoded, where R402 and R403 would refuse, and R150 is followed (DESIGN
CHOICE, log 15). -/
def Role.accepts (role : Role) (o : Operand) : Bool :=
  let typed := match role with
    | .src | .dst | .addr => true
    | _ => o.ty.isNone
  let moded := match o.mode with
    | .literal _ | .negLiteral _ | .immediate _ =>
      match role with
      | .src | .srcPlain | .regList => true
      | _ => false
    | .register _ =>
      match role with
      | .addr | .addrPlain => false
      | _ => true
    | .deferred r => r != .psw
    | .displacement _ r | .displacementDeferred _ r => r != .psw
    | _ => true
  typed && moded

/-- Decoding is byte-serial: a bad operand is reported before an error in what follows it (30_encoding R152). -/
def guardLater {α : Type} (role : Role) (o : Operand) (p : Parse α) : Parse α :=
  match p with
  | .ok x => .ok x
  | .error e => if role.accepts o then .error e else .error .invalidDescriptor

/-- One operand in a role, then the rest of the instruction (30_encoding R123). -/
def withOperand {α : Type} (role : Role) (s : Stream) (k : Operand → Stream → Parse α) : Parse α :=
  (parseOperand s).andThen fun o s => guardLater role o (k o s)

/-! ## The opcode map -/

/-- What follows an opcode (30_encoding R160) and the instruction it makes. -/
inductive Entry where
  | op0 (i : Instr)
  | op1 (a : Role) (mk : Operand → Instr)
  | op2 (a b : Role) (mk : Operand → Operand → Instr)
  | op3 (a b c : Role) (mk : Operand → Operand → Operand → Instr)
  | op4 (a b c d : Role) (mk : Operand → Operand → Operand → Operand → Instr)
  | br8 (mk : BitVec 8 → Instr)
  | br16 (mk : BitVec 16 → Instr)
  | cp0 (mk : Word → Instr)
  | cp1 (a : Role) (mk : Word → Operand → Instr)
  | cp2 (a b : Role) (mk : Word → Operand → Operand → Instr)

/-- One-byte opcodes 0x00 to 0x3F (30_encoding R156). -/
def opcodes0 : List (Nat × Entry) := [
  (0x02, .cp1 .addrPlain .spoprd),
  (0x03, .cp2 .addrPlain .addrPlain .spopd2),
  (0x04, .op2 .addr .dst .movaw),
  (0x06, .cp1 .addrPlain .spoprt),
  (0x07, .cp2 .addrPlain .addrPlain .spopt2),
  (0x08, .op0 .ret),
  (0x0C, .op2 .addr .dst .movtrw),
  (0x10, .op1 .regList .save),
  (0x13, .cp1 .addrPlain .spopwd),
  (0x14, .op0 .extop),
  (0x17, .cp1 .addrPlain .spopwt),
  (0x18, .op1 .regList .restore),
  (0x1C, .op1 .addrPlain .swapwi),
  (0x1E, .op1 .addrPlain .swaphi),
  (0x1F, .op1 .addrPlain .swapbi),
  (0x20, .op1 .dstPlain .popw),
  (0x22, .cp1 .addrPlain .spoprs),
  (0x23, .cp2 .addrPlain .addrPlain .spops2),
  (0x24, .op1 .addr .jmp),
  (0x27, .op0 .cflush),
  (0x28, .op1 .src .tstw),
  (0x2A, .op1 .src .tsth),
  (0x2B, .op1 .src .tstb),
  (0x2C, .op2 .addrPlain .addrPlain .call),
  (0x2E, .op0 .bpt),
  (0x2F, .op0 .wait),
  (0x32, .cp0 .spop),
  (0x33, .cp1 .addrPlain .spopws),
  (0x34, .op1 .addrPlain .jsb),
  (0x36, .br16 .bsbh),
  (0x37, .br8 .bsbb),
  (0x38, .op2 .src .src .bitw),
  (0x3A, .op2 .src .src .bith),
  (0x3B, .op2 .src .src .bitb),
  (0x3C, .op2 .src .src .cmpw),
  (0x3E, .op2 .src .src .cmph),
  (0x3F, .op2 .src .src .cmpb)]

/-- One-byte opcodes 0x40 to 0x7F (30_encoding R156). -/
def opcodes1 : List (Nat × Entry) := [
  (0x40, .op0 .rgeq),
  (0x42, .br16 .bgeh),
  (0x43, .br8 .bgeb),
  (0x44, .op0 .rgtr),
  (0x46, .br16 .bgh),
  (0x47, .br8 .bgb),
  (0x48, .op0 .rlss),
  (0x4A, .br16 .blh),
  (0x4B, .br8 .blb),
  (0x4C, .op0 .rleq),
  (0x4E, .br16 .bleh),
  (0x4F, .br8 .bleb),
  (0x50, .op0 .rcc),
  (0x52, .br16 .bcch),
  (0x53, .br8 .bccb),
  (0x54, .op0 .rgtru),
  (0x56, .br16 .bguh),
  (0x57, .br8 .bgub),
  (0x58, .op0 .rcs),
  (0x5A, .br16 .bcsh),
  (0x5B, .br8 .bcsb),
  (0x5C, .op0 .rlequ),
  (0x5E, .br16 .bleuh),
  (0x5F, .br8 .bleub),
  (0x60, .op0 .rvc),
  (0x62, .br16 .bvch),
  (0x63, .br8 .bvcb),
  (0x64, .op0 .rnequ),
  (0x66, .br16 .bneh66),
  (0x67, .br8 .bneb67),
  (0x68, .op0 .rvs),
  (0x6A, .br16 .bvsh),
  (0x6B, .br8 .bvsb),
  (0x6C, .op0 .reqlu),
  (0x6E, .br16 .beh6e),
  (0x6F, .br8 .beb6f),
  (0x70, .op0 .nop),
  (0x72, .op0 .nop3),
  (0x73, .op0 .nop2),
  (0x74, .op0 .rneq),
  (0x76, .br16 .bneh),
  (0x77, .br8 .bneb),
  (0x78, .op0 .rsb),
  (0x7A, .br16 .brh),
  (0x7B, .br8 .brb),
  (0x7C, .op0 .reql),
  (0x7E, .br16 .beh),
  (0x7F, .br8 .beb)]

/-- One-byte opcodes 0x80 to 0xBF (30_encoding R156). -/
def opcodes2 : List (Nat × Entry) := [
  (0x80, .op1 .dst .clrw),
  (0x82, .op1 .dst .clrh),
  (0x83, .op1 .dst .clrb),
  (0x84, .op2 .src .dst .movw),
  (0x86, .op2 .src .dst .movh),
  (0x87, .op2 .src .dst .movb),
  (0x88, .op2 .src .dst .mcomw),
  (0x8A, .op2 .src .dst .mcomh),
  (0x8B, .op2 .src .dst .mcomb),
  (0x8C, .op2 .src .dst .mnegw),
  (0x8E, .op2 .src .dst .mnegh),
  (0x8F, .op2 .src .dst .mnegb),
  (0x90, .op1 .dst .incw),
  (0x92, .op1 .dst .inch),
  (0x93, .op1 .dst .incb),
  (0x94, .op1 .dst .decw),
  (0x96, .op1 .dst .dech),
  (0x97, .op1 .dst .decb),
  (0x9C, .op2 .src .dst .addw2),
  (0x9E, .op2 .src .dst .addh2),
  (0x9F, .op2 .src .dst .addb2),
  (0xA0, .op1 .srcPlain .pushw),
  (0xA4, .op2 .src .dst .modw2),
  (0xA6, .op2 .src .dst .modh2),
  (0xA7, .op2 .src .dst .modb2),
  (0xA8, .op2 .src .dst .mulw2),
  (0xAA, .op2 .src .dst .mulh2),
  (0xAB, .op2 .src .dst .mulb2),
  (0xAC, .op2 .src .dst .divw2),
  (0xAE, .op2 .src .dst .divh2),
  (0xAF, .op2 .src .dst .divb2),
  (0xB0, .op2 .src .dst .orw2),
  (0xB2, .op2 .src .dst .orh2),
  (0xB3, .op2 .src .dst .orb2),
  (0xB4, .op2 .src .dst .xorw2),
  (0xB6, .op2 .src .dst .xorh2),
  (0xB7, .op2 .src .dst .xorb2),
  (0xB8, .op2 .src .dst .andw2),
  (0xBA, .op2 .src .dst .andh2),
  (0xBB, .op2 .src .dst .andb2),
  (0xBC, .op2 .src .dst .subw2),
  (0xBE, .op2 .src .dst .subh2),
  (0xBF, .op2 .src .dst .subb2)]

/-- One-byte opcodes 0xC0 to 0xFF (30_encoding R156). -/
def opcodes3 : List (Nat × Entry) := [
  (0xC0, .op3 .src .src .dst .alsw3),
  (0xC4, .op3 .src .src .dst .arsw3),
  (0xC6, .op3 .src .src .dst .arsh3),
  (0xC7, .op3 .src .src .dst .arsb3),
  (0xC8, .op4 .src .src .src .dst .insfw),
  (0xCA, .op4 .src .src .src .dst .insfh),
  (0xCB, .op4 .src .src .src .dst .insfb),
  (0xCC, .op4 .src .src .src .dst .extfw),
  (0xCE, .op4 .src .src .src .dst .extfh),
  (0xCF, .op4 .src .src .src .dst .extfb),
  (0xD0, .op3 .src .src .dst .llsw3),
  (0xD2, .op3 .src .src .dst .llsh3),
  (0xD3, .op3 .src .src .dst .llsb3),
  (0xD4, .op3 .src .src .dst .lrsw3),
  (0xD8, .op3 .src .src .dst .rotw),
  (0xDC, .op3 .src .src .dst .addw3),
  (0xDE, .op3 .src .src .dst .addh3),
  (0xDF, .op3 .src .src .dst .addb3),
  (0xE0, .op1 .addrPlain .pushaw),
  (0xE4, .op3 .src .src .dst .modw3),
  (0xE6, .op3 .src .src .dst .modh3),
  (0xE7, .op3 .src .src .dst .modb3),
  (0xE8, .op3 .src .src .dst .mulw3),
  (0xEA, .op3 .src .src .dst .mulh3),
  (0xEB, .op3 .src .src .dst .mulb3),
  (0xEC, .op3 .src .src .dst .divw3),
  (0xEE, .op3 .src .src .dst .divh3),
  (0xEF, .op3 .src .src .dst .divb3),
  (0xF0, .op3 .src .src .dst .orw3),
  (0xF2, .op3 .src .src .dst .orh3),
  (0xF3, .op3 .src .src .dst .orb3),
  (0xF4, .op3 .src .src .dst .xorw3),
  (0xF6, .op3 .src .src .dst .xorh3),
  (0xF7, .op3 .src .src .dst .xorb3),
  (0xF8, .op3 .src .src .dst .andw3),
  (0xFA, .op3 .src .src .dst .andh3),
  (0xFB, .op3 .src .src .dst .andb3),
  (0xFC, .op3 .src .src .dst .subw3),
  (0xFE, .op3 .src .src .dst .subh3),
  (0xFF, .op3 .src .src .dst .subb3)]

/-- The second bytes after the prefix 0x30 (30_encoding R157). -/
def opcodesPrefixed : List (Nat × Entry) := [
  (0x09, .op0 .mverno),
  (0x0D, .op0 .enbvjmp),
  (0x13, .op0 .disvjmp),
  (0x19, .op0 .movblw),
  (0x1F, .op0 .strend),
  (0x2F, .op0 .intack),
  (0x35, .op0 .strcpy),
  (0x45, .op0 .retg),
  (0x61, .op0 .gate),
  (0xAC, .op0 .callps),
  (0xC8, .op0 .retps)]

/-- The entry of an opcode number in a table. -/
def lookup (n : Nat) : List (Nat × Entry) → Option Entry
  | [] => none
  | (k, e) :: rest => if Nat.beq k n then some e else lookup n rest

/-- The entry of a one-byte opcode; none is an unassigned opcode, or the prefix (30_encoding R158). -/
def entryOne (b : Byte) : Option Entry :=
  match (b.extractLsb' 6 2).toNat with
  | 0 => lookup b.toNat opcodes0
  | 1 => lookup b.toNat opcodes1
  | 2 => lookup b.toNat opcodes2
  | _ => lookup b.toNat opcodes3

/-- The entry of a second opcode byte after 0x30 (30_encoding R157, R158). -/
def entryTwo (b : Byte) : Option Entry := lookup b.toNat opcodesPrefixed

/-- The instruction of an entry, with what follows its opcode (30_encoding R160). NOP2, NOP3 and EXTOP read nothing:
their ignored bytes are never fetched (45_stack_misc R456, R457, R460). -/
def parseEntry (e : Entry) (s : Stream) : Parse Instr :=
  match e with
  | .op0 i => .ok (i, s)
  | .op1 a mk => withOperand a s fun x s => .ok (mk x, s)
  | .op2 a b mk => withOperand a s fun x s => withOperand b s fun y s => .ok (mk x y, s)
  | .op3 a b c mk => withOperand a s fun x s => withOperand b s fun y s => withOperand c s fun z s => .ok (mk x y z, s)
  | .op4 a b c d mk =>
    withOperand a s fun x s => withOperand b s fun y s => withOperand c s fun z s => withOperand d s fun w s =>
      .ok (mk x y z w, s)
  | .br8 mk => (takeByte s).andThen fun v s => .ok (mk v, s)
  | .br16 mk => (takeHalf s).andThen fun v s => .ok (mk v, s)
  | .cp0 mk => (takeWord s).andThen fun v s => .ok (mk v, s)
  | .cp1 a mk => (takeWord s).andThen fun v s => withOperand a s fun x s => .ok (mk v x, s)
  | .cp2 a b mk => (takeWord s).andThen fun v s => withOperand a s fun x s => withOperand b s fun y s => .ok (mk v x y, s)

/-- What an entry, or the lack of one, makes of the stream behind its opcode (30_encoding R158). -/
def parseFound (e : Option Entry) (s : Stream) : Parse Instr :=
  match e with
  | none => .error .illegalOpcode
  | some e => parseEntry e s

/-- The instruction at the head of a stream, and the rest of the stream (30_encoding R122, R123, R158). -/
def decode (s : Stream) : Parse Instr :=
  (takeByte s).andThen fun b s =>
    if b = 0x30 then (takeByte s).andThen fun b s => parseFound (entryTwo b) s
    else parseFound (entryOne b) s

/-! ## The encoder -/

/-- Two bytes, low-order first (30_encoding R125). -/
def encodeHalf (v : Half) : List Byte := [v.extractLsb' 0 8, v.extractLsb' 8 8]

/-- Four bytes, low-order first (30_encoding R125). -/
def encodeWord (v : Word) : List Byte := encodeHalf (v.extractLsb' 0 16) ++ encodeHalf (v.extractLsb' 16 16)

/-- A datum's bytes, low-order first (30_encoding R125). -/
def Datum.encode : Datum → List Byte
  | .byte v => [v]
  | .half v => encodeHalf v
  | .word v => encodeWord v

/-- A descriptor byte from its mode and register fields (30_encoding R127). -/
def descriptor (mmmm rrrr : BitVec 4) : Byte := mmmm ++ rrrr

/-- The mode field of the displacement modes (30_encoding R136). -/
def Datum.displacementMode : Datum → BitVec 4
  | .byte _ => 12
  | .half _ => 10
  | .word _ => 8

/-- The mode field of the displacement deferred modes (30_encoding R137). -/
def Datum.deferredMode : Datum → BitVec 4
  | .byte _ => 13
  | .half _ => 11
  | .word _ => 9

/-- The mode field of the immediate modes (30_encoding R139). -/
def Datum.immediateMode : Datum → BitVec 4
  | .byte _ => 6
  | .half _ => 5
  | .word _ => 4

/-- Descriptor byte and data bytes of a mode (30_encoding R128). -/
def Mode.encode : Mode → List Byte
  | .literal v => [v.zeroExtend 8]
  | .negLiteral v => [descriptor 15 v]
  | .immediate d => descriptor d.immediateMode 15 :: d.encode
  | .register r => [descriptor 4 r.num]
  | .deferred r => [descriptor 5 r.num]
  | .fpOffset n => [descriptor 6 n]
  | .apOffset n => [descriptor 7 n]
  | .displacement d r => descriptor d.displacementMode r.num :: d.encode
  | .displacementDeferred d r => descriptor d.deferredMode r.num :: d.encode
  | .absolute a => 0x7F :: encodeWord a
  | .absoluteDeferred a => 0xEF :: encodeWord a

/-- An operand's bytes: the expanded-type byte, if any, then the mode (30_encoding R142). -/
def Operand.encode (o : Operand) : List Byte :=
  match o.ty with
  | none => o.mode.encode
  | some t => descriptor 14 t.num :: o.mode.encode

/-- The data bytes of a datum. -/
def Datum.length : Datum → Nat
  | .byte _ => 1
  | .half _ => 2
  | .word _ => 4

/-- The bytes of a mode (30_encoding R128, column Length). -/
def Mode.length : Mode → Nat
  | .immediate d | .displacement d _ | .displacementDeferred d _ => 1 + d.length
  | .absolute _ | .absoluteDeferred _ => 5
  | _ => 1

/-- The bytes of an operand (30_encoding R124, R142). -/
def Operand.length (o : Operand) : Nat := (if o.ty.isSome then 1 else 0) + o.mode.length

/-- The bytes of an instruction (30_encoding R120, R156, R157, R160). The ignored bytes of NOP2, NOP3 and EXTOP are
written as zeros. -/
def encode : Instr → List Byte
  | .spoprd word src => 0x02 :: (encodeWord word ++ src.encode)
  | .spopd2 word src dst => 0x03 :: (encodeWord word ++ src.encode ++ dst.encode)
  | .movaw src dst => 0x04 :: (src.encode ++ dst.encode)
  | .spoprt word src => 0x06 :: (encodeWord word ++ src.encode)
  | .spopt2 word src dst => 0x07 :: (encodeWord word ++ src.encode ++ dst.encode)
  | .ret => [0x08]
  | .movtrw src dst => 0x0C :: (src.encode ++ dst.encode)
  | .save reg => 0x10 :: (reg.encode)
  | .spopwd word dst => 0x13 :: (encodeWord word ++ dst.encode)
  | .extop => [0x14, 0]
  | .spopwt word dst => 0x17 :: (encodeWord word ++ dst.encode)
  | .restore reg => 0x18 :: (reg.encode)
  | .swapwi dst => 0x1C :: (dst.encode)
  | .swaphi dst => 0x1E :: (dst.encode)
  | .swapbi dst => 0x1F :: (dst.encode)
  | .popw dst => 0x20 :: (dst.encode)
  | .spoprs word src => 0x22 :: (encodeWord word ++ src.encode)
  | .spops2 word src dst => 0x23 :: (encodeWord word ++ src.encode ++ dst.encode)
  | .jmp dst => 0x24 :: (dst.encode)
  | .cflush => [0x27]
  | .tstw src => 0x28 :: (src.encode)
  | .tsth src => 0x2A :: (src.encode)
  | .tstb src => 0x2B :: (src.encode)
  | .call src dst => 0x2C :: (src.encode ++ dst.encode)
  | .bpt => [0x2E]
  | .wait => [0x2F]
  | .spop word => 0x32 :: (encodeWord word)
  | .spopws word dst => 0x33 :: (encodeWord word ++ dst.encode)
  | .jsb dst => 0x34 :: (dst.encode)
  | .bsbh disp => 0x36 :: (encodeHalf disp)
  | .bsbb disp => [0x37, disp]
  | .bitw src1 src2 => 0x38 :: (src1.encode ++ src2.encode)
  | .bith src1 src2 => 0x3A :: (src1.encode ++ src2.encode)
  | .bitb src1 src2 => 0x3B :: (src1.encode ++ src2.encode)
  | .cmpw src1 src2 => 0x3C :: (src1.encode ++ src2.encode)
  | .cmph src1 src2 => 0x3E :: (src1.encode ++ src2.encode)
  | .cmpb src1 src2 => 0x3F :: (src1.encode ++ src2.encode)
  | .rgeq => [0x40]
  | .bgeh disp => 0x42 :: (encodeHalf disp)
  | .bgeb disp => [0x43, disp]
  | .rgtr => [0x44]
  | .bgh disp => 0x46 :: (encodeHalf disp)
  | .bgb disp => [0x47, disp]
  | .rlss => [0x48]
  | .blh disp => 0x4A :: (encodeHalf disp)
  | .blb disp => [0x4B, disp]
  | .rleq => [0x4C]
  | .bleh disp => 0x4E :: (encodeHalf disp)
  | .bleb disp => [0x4F, disp]
  | .rcc => [0x50]
  | .rgequ => [0x50]
  | .bcch disp => 0x52 :: (encodeHalf disp)
  | .bgeuh disp => 0x52 :: (encodeHalf disp)
  | .bccb disp => [0x53, disp]
  | .bgeub disp => [0x53, disp]
  | .rgtru => [0x54]
  | .bguh disp => 0x56 :: (encodeHalf disp)
  | .bgub disp => [0x57, disp]
  | .rcs => [0x58]
  | .rlssu => [0x58]
  | .bcsh disp => 0x5A :: (encodeHalf disp)
  | .bluh disp => 0x5A :: (encodeHalf disp)
  | .bcsb disp => [0x5B, disp]
  | .blub disp => [0x5B, disp]
  | .rlequ => [0x5C]
  | .bleuh disp => 0x5E :: (encodeHalf disp)
  | .bleub disp => [0x5F, disp]
  | .rvc => [0x60]
  | .bvch disp => 0x62 :: (encodeHalf disp)
  | .bvcb disp => [0x63, disp]
  | .rnequ => [0x64]
  | .bneh66 disp => 0x66 :: (encodeHalf disp)
  | .bneb67 disp => [0x67, disp]
  | .rvs => [0x68]
  | .bvsh disp => 0x6A :: (encodeHalf disp)
  | .bvsb disp => [0x6B, disp]
  | .reqlu => [0x6C]
  | .beh6e disp => 0x6E :: (encodeHalf disp)
  | .beb6f disp => [0x6F, disp]
  | .nop => [0x70]
  | .nop3 => [0x72, 0, 0]
  | .nop2 => [0x73, 0]
  | .rneq => [0x74]
  | .bneh disp => 0x76 :: (encodeHalf disp)
  | .bneb disp => [0x77, disp]
  | .rsb => [0x78]
  | .brh disp => 0x7A :: (encodeHalf disp)
  | .brb disp => [0x7B, disp]
  | .reql => [0x7C]
  | .beh disp => 0x7E :: (encodeHalf disp)
  | .beb disp => [0x7F, disp]
  | .clrw dst => 0x80 :: (dst.encode)
  | .clrh dst => 0x82 :: (dst.encode)
  | .clrb dst => 0x83 :: (dst.encode)
  | .movw src dst => 0x84 :: (src.encode ++ dst.encode)
  | .movh src dst => 0x86 :: (src.encode ++ dst.encode)
  | .movb src dst => 0x87 :: (src.encode ++ dst.encode)
  | .mcomw src dst => 0x88 :: (src.encode ++ dst.encode)
  | .mcomh src dst => 0x8A :: (src.encode ++ dst.encode)
  | .mcomb src dst => 0x8B :: (src.encode ++ dst.encode)
  | .mnegw src dst => 0x8C :: (src.encode ++ dst.encode)
  | .mnegh src dst => 0x8E :: (src.encode ++ dst.encode)
  | .mnegb src dst => 0x8F :: (src.encode ++ dst.encode)
  | .incw dst => 0x90 :: (dst.encode)
  | .inch dst => 0x92 :: (dst.encode)
  | .incb dst => 0x93 :: (dst.encode)
  | .decw dst => 0x94 :: (dst.encode)
  | .dech dst => 0x96 :: (dst.encode)
  | .decb dst => 0x97 :: (dst.encode)
  | .addw2 src dst => 0x9C :: (src.encode ++ dst.encode)
  | .addh2 src dst => 0x9E :: (src.encode ++ dst.encode)
  | .addb2 src dst => 0x9F :: (src.encode ++ dst.encode)
  | .pushw src => 0xA0 :: (src.encode)
  | .modw2 src dst => 0xA4 :: (src.encode ++ dst.encode)
  | .modh2 src dst => 0xA6 :: (src.encode ++ dst.encode)
  | .modb2 src dst => 0xA7 :: (src.encode ++ dst.encode)
  | .mulw2 src dst => 0xA8 :: (src.encode ++ dst.encode)
  | .mulh2 src dst => 0xAA :: (src.encode ++ dst.encode)
  | .mulb2 src dst => 0xAB :: (src.encode ++ dst.encode)
  | .divw2 src dst => 0xAC :: (src.encode ++ dst.encode)
  | .divh2 src dst => 0xAE :: (src.encode ++ dst.encode)
  | .divb2 src dst => 0xAF :: (src.encode ++ dst.encode)
  | .orw2 src dst => 0xB0 :: (src.encode ++ dst.encode)
  | .orh2 src dst => 0xB2 :: (src.encode ++ dst.encode)
  | .orb2 src dst => 0xB3 :: (src.encode ++ dst.encode)
  | .xorw2 src dst => 0xB4 :: (src.encode ++ dst.encode)
  | .xorh2 src dst => 0xB6 :: (src.encode ++ dst.encode)
  | .xorb2 src dst => 0xB7 :: (src.encode ++ dst.encode)
  | .andw2 src dst => 0xB8 :: (src.encode ++ dst.encode)
  | .andh2 src dst => 0xBA :: (src.encode ++ dst.encode)
  | .andb2 src dst => 0xBB :: (src.encode ++ dst.encode)
  | .subw2 src dst => 0xBC :: (src.encode ++ dst.encode)
  | .subh2 src dst => 0xBE :: (src.encode ++ dst.encode)
  | .subb2 src dst => 0xBF :: (src.encode ++ dst.encode)
  | .alsw3 count src dst => 0xC0 :: (count.encode ++ src.encode ++ dst.encode)
  | .arsw3 count src dst => 0xC4 :: (count.encode ++ src.encode ++ dst.encode)
  | .arsh3 count src dst => 0xC6 :: (count.encode ++ src.encode ++ dst.encode)
  | .arsb3 count src dst => 0xC7 :: (count.encode ++ src.encode ++ dst.encode)
  | .insfw width offset src dst => 0xC8 :: (width.encode ++ offset.encode ++ src.encode ++ dst.encode)
  | .insfh width offset src dst => 0xCA :: (width.encode ++ offset.encode ++ src.encode ++ dst.encode)
  | .insfb width offset src dst => 0xCB :: (width.encode ++ offset.encode ++ src.encode ++ dst.encode)
  | .extfw width offset src dst => 0xCC :: (width.encode ++ offset.encode ++ src.encode ++ dst.encode)
  | .extfh width offset src dst => 0xCE :: (width.encode ++ offset.encode ++ src.encode ++ dst.encode)
  | .extfb width offset src dst => 0xCF :: (width.encode ++ offset.encode ++ src.encode ++ dst.encode)
  | .llsw3 count src dst => 0xD0 :: (count.encode ++ src.encode ++ dst.encode)
  | .llsh3 count src dst => 0xD2 :: (count.encode ++ src.encode ++ dst.encode)
  | .llsb3 count src dst => 0xD3 :: (count.encode ++ src.encode ++ dst.encode)
  | .lrsw3 count src dst => 0xD4 :: (count.encode ++ src.encode ++ dst.encode)
  | .rotw count src dst => 0xD8 :: (count.encode ++ src.encode ++ dst.encode)
  | .addw3 src1 src2 dst => 0xDC :: (src1.encode ++ src2.encode ++ dst.encode)
  | .addh3 src1 src2 dst => 0xDE :: (src1.encode ++ src2.encode ++ dst.encode)
  | .addb3 src1 src2 dst => 0xDF :: (src1.encode ++ src2.encode ++ dst.encode)
  | .pushaw src => 0xE0 :: (src.encode)
  | .modw3 src1 src2 dst => 0xE4 :: (src1.encode ++ src2.encode ++ dst.encode)
  | .modh3 src1 src2 dst => 0xE6 :: (src1.encode ++ src2.encode ++ dst.encode)
  | .modb3 src1 src2 dst => 0xE7 :: (src1.encode ++ src2.encode ++ dst.encode)
  | .mulw3 src1 src2 dst => 0xE8 :: (src1.encode ++ src2.encode ++ dst.encode)
  | .mulh3 src1 src2 dst => 0xEA :: (src1.encode ++ src2.encode ++ dst.encode)
  | .mulb3 src1 src2 dst => 0xEB :: (src1.encode ++ src2.encode ++ dst.encode)
  | .divw3 src1 src2 dst => 0xEC :: (src1.encode ++ src2.encode ++ dst.encode)
  | .divh3 src1 src2 dst => 0xEE :: (src1.encode ++ src2.encode ++ dst.encode)
  | .divb3 src1 src2 dst => 0xEF :: (src1.encode ++ src2.encode ++ dst.encode)
  | .orw3 src1 src2 dst => 0xF0 :: (src1.encode ++ src2.encode ++ dst.encode)
  | .orh3 src1 src2 dst => 0xF2 :: (src1.encode ++ src2.encode ++ dst.encode)
  | .orb3 src1 src2 dst => 0xF3 :: (src1.encode ++ src2.encode ++ dst.encode)
  | .xorw3 src1 src2 dst => 0xF4 :: (src1.encode ++ src2.encode ++ dst.encode)
  | .xorh3 src1 src2 dst => 0xF6 :: (src1.encode ++ src2.encode ++ dst.encode)
  | .xorb3 src1 src2 dst => 0xF7 :: (src1.encode ++ src2.encode ++ dst.encode)
  | .andw3 src1 src2 dst => 0xF8 :: (src1.encode ++ src2.encode ++ dst.encode)
  | .andh3 src1 src2 dst => 0xFA :: (src1.encode ++ src2.encode ++ dst.encode)
  | .andb3 src1 src2 dst => 0xFB :: (src1.encode ++ src2.encode ++ dst.encode)
  | .subw3 src1 src2 dst => 0xFC :: (src1.encode ++ src2.encode ++ dst.encode)
  | .subh3 src1 src2 dst => 0xFE :: (src1.encode ++ src2.encode ++ dst.encode)
  | .subb3 src1 src2 dst => 0xFF :: (src1.encode ++ src2.encode ++ dst.encode)
  | .mverno => [0x30, 0x09]
  | .enbvjmp => [0x30, 0x0D]
  | .disvjmp => [0x30, 0x13]
  | .movblw => [0x30, 0x19]
  | .strend => [0x30, 0x1F]
  | .intack => [0x30, 0x2F]
  | .strcpy => [0x30, 0x35]
  | .retg => [0x30, 0x45]
  | .gate => [0x30, 0x61]
  | .callps => [0x30, 0xAC]
  | .retps => [0x30, 0xC8]

/-- The instruction the decoder gives for an instruction's bytes: the second names of 30_encoding R159 decode as their
twins. -/
def canonical : Instr → Instr
  | .rgequ => .rcc
  | .bgeuh disp => .bcch disp
  | .bgeub disp => .bccb disp
  | .rlssu => .rcs
  | .bluh disp => .bcsh disp
  | .blub disp => .bcsb disp
  | i => i

/-- The bytes of the low nbits bits of w. spec/opcode_table.json writes a two-byte opcode as one number with the byte
0x30 first and most significant (30_encoding R155); in any other numbering the first byte is the low one. Log 28. -/
def tableBytes (nbits w : Nat) : List Byte :=
  let n := nbits / 8
  let up := (List.range n).map fun k => BitVec.ofNat 8 (w >>> (8 * k))
  let down := up.reverse
  if down.head? = some 0x30 then down else up

/-- The longest instruction (30_encoding R124). -/
def maxLength : Nat := 25

/-- The instruction the decoder reads from the table's bits, every later bit being zero. -/
def decodeTableWord (nbits w : Nat) : Option Instr :=
  match decode ((tableBytes nbits w ++ List.replicate maxLength 0).map some) with
  | .ok (i, _) => some i
  | .error _ => none

end Sys2Proof
end

