-- ==== Sys2Proof/Machine/State.lean ====
section
/-! DEFINITION. The state of the machine, as plain data, and the state after reset. -/

namespace Sys2Proof.Machine

/-- The sixteen registers (10_state R20, R21). -/
structure Regs where
  r0 : Word
  r1 : Word
  r2 : Word
  r3 : Word
  r4 : Word
  r5 : Word
  r6 : Word
  r7 : Word
  r8 : Word
  fp : Word
  ap : Word
  psw : Word
  sp : Word
  pcbp : Word
  isp : Word
  pc : Word
  deriving DecidableEq, Repr

/-- Memory: (address, byte) pairs, addresses strictly rising and below 2^32, no byte 0. An address that is not listed
reads as 0 (log 4). -/
abbrev Memory := List Host.Cell

/-- One clause of the external MMU's translation, as much of it as the CPU can see (20_memory R98): the virtual
addresses vbase to vbase + size - 1 go to pbase and up, for a read, a write and an instruction fetch at the execution
levels named (bit k is level k). The first clause that applies counts, so the physical address may depend on the level
and the kind of access. -/
structure XlatEntry where
  vbase : Word
  size : Nat
  pbase : Word
  readLevels : BitVec 4
  writeLevels : BitVec 4
  fetchLevels : BitVec 4
  deriving DecidableEq, Repr

/-- What the environment answers to a transaction in place of memory (20_memory R80, R90). -/
inductive Answer where
  /-- FAULT is asserted. -/
  | fault
  /-- A device takes the transaction: a read gets the low bits of w, a written datum does not reach memory. next is the
  second word where it answers a double word with BLKFTCH (20_memory R118). -/
  | drive (w : Word) (next : Option Word)
  deriving DecidableEq, Repr

/-- One clause of the memory agent (20_memory R81, R90; 92_eei_decisions D8): a transaction at an address base to
base + size - 1 gets the answer if its status code, its size (bit k is DSIZE code k, 20_memory R92), its level, its
virtual flag and its direction are among those named and, where a datum is named, that datum is written. The first
clause that applies counts. -/
structure Reply where
  base : Word
  size : Nat
  statuses : BitVec 16
  sizes : BitVec 4
  levels : BitVec 4
  virtuals : BitVec 2
  reads : Bool
  writes : Bool
  datum : Option Word
  answer : Answer
  deriving DecidableEq, Repr

/-- What the coprocessor answers (44_coprocessor R430): whether it acknowledges a broadcast, whether it signals done,
the status word or a fault on its fetch, and the words it drives on the data writes. -/
structure CopPort where
  ack : Bool
  done : Bool
  status : Word
  statusFault : Bool
  d0 : Word
  d1 : Word
  d2 : Word
  deriving DecidableEq, Repr

/-- A transaction the coprocessor has seen (44_coprocessor R431, R432): the command word, or an operand word. -/
inductive CopEvent where
  | broadcast (w : Word)
  | operand (w : Word)
  deriving DecidableEq, Repr

/-- What the environment presents to the CPU (10_state R60, 92_eei_decisions, Open parameters). The active-low pins
RESETR, STOP, NMINT and AVEC are given as asserted or not; IPL0-IPL3 and INTOPT as the levels on the pins. -/
structure Inputs where
  /-- RESETR asserted (70_reset_and_hazards R600). -/
  resetr : Bool
  /-- STOP asserted and honoured at this instruction boundary (60_exceptions R540). -/
  stop : Bool
  /-- NMINT asserted (60_exceptions R530). -/
  nmint : Bool
  /-- AVEC asserted (60_exceptions R532). -/
  avec : Bool
  /-- The level of the INTOPT pin (60_exceptions R532). -/
  intopt : Bool
  /-- The levels of the IPL3-IPL0 pins: the inverted requested level (60_exceptions R530). -/
  ipl : BitVec 4
  /-- The byte a device drives on the interrupt acknowledge read (20_memory R114). -/
  intId : Byte
  /-- An MMU answers virtual accesses (20_memory R97, R98). -/
  mmuPresent : Bool
  /-- Its translation; an access to which no clause applies faults. -/
  xlat : List XlatEntry
  /-- The memory agent where it does not answer as memory: faults and devices (20_memory R81, R90). -/
  replies : List Reply
  /-- The coprocessor (44_coprocessor R430); ack = false is a system without one. -/
  cop : CopPort
  /-- Words the CPU prefetches into the instruction cache before this step (20_memory R106). -/
  cacheFill : List Word
  /-- Bytes of those words that the cache does not take: what it holds of them, or that it holds none, stays, so that each
  byte of a word may be old or new (20_memory R106, D4). -/
  cacheKeep : List Word
  /-- Bytes the cache gives up before this step: its replacement is not described (20_memory R105). -/
  cacheDrop : List Word
  /-- How many bytes it prefetches into the instruction queue before this step (20_memory R118). -/
  queueFill : Nat
  /-- Prefetches are presented with size word, not double word (20_memory R92). -/
  prefetchWord : Bool
  /-- Where memory answers a double word with BLKFTCH: physical addresses, a base and a size each (20_memory R118). -/
  blkftch : List (Word × Nat)
  /-- How many of the bytes that arrived behind an instruction, with its last words, the queue keeps (20_memory R118). -/
  queueKeep : Nat
  /-- Bytes other bus masters write to physical memory before this step (20_memory R101). -/
  busWrites : List (Word × Byte)
  deriving DecidableEq, Repr

/-- What happens on the bus before one transaction of the CPU (20_memory R101): the bytes other bus masters write, and
what the environment presents from then on if that changes. RESETR asserted there cuts off the instruction or
microsequence under way (60_exceptions R514, 70_reset_and_hazards R600). -/
structure BusEvent where
  writes : List (Word × Byte)
  inputs : Option Inputs
  deriving DecidableEq, Repr

/-- An environment that asks for nothing: no reset, no stop, no interrupt (IPL pins 1111), no MMU, no coprocessor. -/
def Inputs.idle : Inputs where
  resetr := false
  stop := false
  nmint := false
  avec := false
  intopt := true
  ipl := 0xF
  intId := 0
  mmuPresent := false
  xlat := []
  replies := []
  cop := { ack := false, done := false, status := 0, statusFault := false, d0 := 0, d1 := 0, d2 := 0 }
  cacheFill := []
  cacheKeep := []
  cacheDrop := []
  queueFill := 0
  prefetchWord := false
  blkftch := []
  queueKeep := 0
  busWrites := []

/-- The instructions that proceed by iterations an interrupt may come between (60_exceptions R535). -/
inductive Iteration where
  | movblw | strcpy | strend
  deriving DecidableEq, Repr

/-- What an XSWITCH_THREE belongs to, and so what follows its last block (46_operating_system R479, R480,
60_exceptions R533). -/
inductive Switch where
  | callps | retps | interrupt
  deriving DecidableEq, Repr

/-- What the machine is in the middle of. -/
inductive Phase where
  /-- Between two instructions. -/
  | running
  /-- Halted by WAIT (10_state R61). -/
  | waiting
  /-- Between two iterations of the instruction at the program counter (60_exceptions R535). -/
  | iterating (k : Iteration)
  /-- Waiting for the coprocessor's done, with the result's address and word count and the instruction's length
  (44_coprocessor R433). -/
  | coprocessor (ea : Word) (words : Nat) (len : Nat)
  /-- In the block moves of XSWITCH_THREE; copying says whether a block is being copied (46_operating_system R478). -/
  | blockMoves (owner : Switch) (copying : Bool)
  /-- In a reset sequence, external or internal (60_exceptions R523, R575). -/
  | resetting (external : Bool)
  deriving DecidableEq, Repr

/-- The machine (INVENTORY.md, State). -/
structure State where
  /-- The sixteen registers. -/
  regs : Regs
  /-- The VAD output is asserted (10_state R54). -/
  virtualMode : Bool
  /-- A microsequence forces kernel level on memory accesses (10_state R52). -/
  kernelForced : Bool
  /-- The instruction cache: (address, byte) pairs, the latest first, each as old as it may be (20_memory R106, D4), of at
  most 64 words (00_scope R7). -/
  icache : List (Word × Byte)
  /-- The instruction queue, at most 8 bytes: those from the program counter on, or, while an instruction is under way,
  those behind it (00_scope R7, 20_memory R119). -/
  iqueue : List Byte
  /-- The cache contents are arbitrary until the next flush (20_memory R108). -/
  cacheCorrupt : Bool
  /-- What the machine is in the middle of. -/
  phase : Phase
  /-- The next instruction fetch follows a transfer of control (20_memory R119). -/
  discont : Bool
  /-- An overflow trap is due at the end of the next instruction (70_reset_and_hazards R612). -/
  pendingOverflow : Bool
  /-- PSW TE was changed by an explicit write since the last trace test (10_state R42, 93_implementation_defined U8). -/
  traceOpen : Bool
  /-- N, Z, V, C when the current instruction began (70_reset_and_hazards R610). -/
  flagsAtStart : BitVec 4
  /-- N, Z, V, C when the instruction before it began (70_reset_and_hazards R610). -/
  prevFlags : BitVec 4
  /-- The model's own counter, applied to the constants of Config. -/
  free : Nat
  /-- Memory. -/
  mem : Memory
  /-- What the environment presents now. -/
  inputs : Inputs
  /-- What it will present at the following steps, one entry a step; the last entry stays. -/
  upcoming : List Inputs
  /-- What happens on the bus before the CPU's next transactions, one entry a transaction; then nothing does. -/
  bus : List BusEvent
  /-- The transactions the coprocessor has seen, the latest first. -/
  copBus : List CopEvent
  deriving DecidableEq, Repr

/-- Why the machine stops with no next state. -/
inductive Fault where
  /-- SAVE of an operand that is not register mode naming r0 to r9: the manual calls the results indeterminate
  (43_program_control R402, 93_implementation_defined U5). Raised by execSave. Safe: no successor is claimed. -/
  | indeterminateSave
  /-- RESTORE of such an operand (43_program_control R403, 93_implementation_defined U5). Raised by execRestore.
  Safe: no successor is claimed. -/
  | indeterminateRestore
  deriving DecidableEq, Repr

/-- Why the model gives an instruction no meaning. -/
inductive Refusal where
  /-- The instruction has no meaning in this model. Raised by an arm of exec. Safe: no successor is claimed. -/
  | notModelled (mnemonic : String)
  deriving DecidableEq, Repr

/-- What a step answers. -/
abbrev Outcome := Host.Outcome State Fault Refusal

/-- The registers after the reset sequence ran over a memory with nothing listed (10_state R67): PC, SP and PCBP hold
the words at 4, 8 and 0x80, which read 0; the PSW holds ISC 3 and ET 3. The others are 0: log 1. -/
def Regs.reset : Regs where
  r0 := 0
  r1 := 0
  r2 := 0
  r3 := 0
  r4 := 0
  r5 := 0
  r6 := 0
  r7 := 0
  r8 := 0
  fp := 0
  ap := 0
  psw := 0x1B
  sp := 0
  pcbp := 0
  isp := 0
  pc := 0

/-- The machine right after an external reset, at the moment its first instruction is fetched (10_state R67), with
memory listing nothing and an idle environment. -/
def State.reset : State where
  regs := Regs.reset
  virtualMode := false
  kernelForced := false
  icache := []
  iqueue := []
  cacheCorrupt := false
  phase := .running
  discont := true
  pendingOverflow := false
  traceOpen := false
  flagsAtStart := 0
  prevFlags := 0
  free := 0
  mem := []
  inputs := Inputs.idle
  upcoming := []
  bus := []
  copBus := []

end Sys2Proof.Machine
end

