-- ==== Sys2Proof/Machine/Psw.lean ====
section
/-! DEFINITION. Bits and extensions, the fields of the processor status word, and the registers
(spec/10_state.md R20 to R50). -/

namespace Sys2Proof.Machine

/-! ## Bits -/

/-- w with the bits of mask replaced by those of v. -/
def merge (mask v w : Word) : Word := (w &&& ~~~mask) ||| (v &&& mask)

/-- Sign extension of the low n bits, n at most 32 (00_scope R11). -/
def sextLow (n : Nat) (v : Word) : Word := (v <<< (32 - n)).sshiftRight (32 - n)

/-- Zero extension of the low n bits, n at most 32 (00_scope R11). -/
def zextLow (n : Nat) (v : Word) : Word := (v <<< (32 - n)) >>> (32 - n)

/-- A datum as a signed displacement (30_encoding R136). -/
def signedDatum : Datum → Word
  | .byte v => v.signExtend 32
  | .half v => v.signExtend 32
  | .word v => v

/-- A datum zero-extended (30_encoding R139). -/
def unsignedDatum : Datum → Word
  | .byte v => v.zeroExtend 32
  | .half v => v.zeroExtend 32
  | .word v => v

/-! ## The fields of a PSW image (10_state R33) -/

def maskR : Word := 0x00000100
def maskI : Word := 0x00000080
def maskPm : Word := 0x00000600
def maskIpl : Word := 0x0001E000
/-- ISC, TM and ET together (10_state R34 to R36). -/
def maskCodes : Word := 0x0000007F
/-- N, Z, V and C together, bits 21 to 18 (10_state R43). -/
def maskFlags : Word := 0x003C0000
/-- CFD, QIE and CD together, bits 25 to 23 (10_state R45 to R47). -/
def maskCache : Word := 0x03800000
/-- The bits that exist (10_state R48). -/
def maskPsw : Word := 0x03FFFFFF
/-- The bits an explicit write takes: 25:9. I, bit 7, is kept by 70_reset_and_hazards R611 and 93 U11, though the mask of
10_state R49 has it (log 11). -/
def maskWritable : Word := 0x03FFFE00

/-- ET (10_state R34). -/
def pswEt (w : Word) : BitVec 2 := w.extractLsb' 0 2
/-- TM (10_state R35). -/
def pswTm (w : Word) : Bool := w.getLsbD 2
/-- ISC (10_state R36). -/
def pswIsc (w : Word) : BitVec 4 := w.extractLsb' 3 4
/-- I (10_state R37). -/
def pswI (w : Word) : Bool := w.getLsbD 7
/-- R (10_state R38). -/
def pswR (w : Word) : Bool := w.getLsbD 8
/-- PM (10_state R39). -/
def pswPm (w : Word) : BitVec 2 := w.extractLsb' 9 2
/-- CM (10_state R40). -/
def pswCm (w : Word) : BitVec 2 := w.extractLsb' 11 2
/-- IPL (10_state R41). -/
def pswIpl (w : Word) : BitVec 4 := w.extractLsb' 13 4
/-- TE (10_state R42). -/
def pswTe (w : Word) : Bool := w.getLsbD 17
/-- N, Z, V, C as bits 3 to 0 (10_state R43). -/
def pswFlags (w : Word) : BitVec 4 := w.extractLsb' 18 4
/-- OE (10_state R44). -/
def pswOe (w : Word) : Bool := w.getLsbD 22
/-- CD (10_state R45). -/
def pswCd (w : Word) : Bool := w.getLsbD 23
/-- QIE (10_state R46). -/
def pswQie (w : Word) : Bool := w.getLsbD 24
/-- CFD (10_state R47). -/
def pswCfd (w : Word) : Bool := w.getLsbD 25

/-- ISC, TM and ET as one field. -/
def codes (isc : BitVec 4) (tm : Bool) (et : BitVec 2) : Word := ((isc ++ BitVec.ofBool tm) ++ et).zeroExtend 32

/-- w with ISC, TM, ET replaced. -/
def withCodes (isc : BitVec 4) (tm : Bool) (et : BitVec 2) (w : Word) : Word := merge maskCodes (codes isc tm et) w

/-- w with ISC replaced. -/
def withIsc (isc : BitVec 4) (w : Word) : Word := withCodes isc (pswTm w) (pswEt w) w

/-- w with TM replaced. -/
def withTm (tm : Bool) (w : Word) : Word := withCodes (pswIsc w) tm (pswEt w) w

/-- w with PM replaced. -/
def withPm (pm : BitVec 2) (w : Word) : Word := merge maskPm (pm.zeroExtend 32 <<< 9) w

/-- w with IPL replaced. -/
def withIpl (ipl : BitVec 4) (w : Word) : Word := merge maskIpl (ipl.zeroExtend 32 <<< 13) w

/-- w with R replaced. -/
def withR (r : Bool) (w : Word) : Word := merge maskR ((BitVec.ofBool r).zeroExtend 32 <<< 8) w

/-- w with I cleared. -/
def clearI (w : Word) : Word := merge maskI 0 w

/-- w with N, Z, V, C replaced. -/
def withFlags (f : BitVec 4) (w : Word) : Word := merge maskFlags (f.zeroExtend 32 <<< 18) w

/-! ## Registers -/

/-- Read a register of the file. -/
def readReg (r : Reg) (g : Regs) : Word :=
  match r with
  | .r0 => g.r0 | .r1 => g.r1 | .r2 => g.r2 | .r3 => g.r3 | .r4 => g.r4 | .r5 => g.r5 | .r6 => g.r6 | .r7 => g.r7
  | .r8 => g.r8 | .fp => g.fp | .ap => g.ap | .psw => g.psw | .sp => g.sp | .pcbp => g.pcbp | .isp => g.isp | .pc => g.pc

/-- Write a register of the file. -/
def writeReg (r : Reg) (v : Word) (g : Regs) : Regs :=
  match r with
  | .r0 => { g with r0 := v } | .r1 => { g with r1 := v } | .r2 => { g with r2 := v } | .r3 => { g with r3 := v }
  | .r4 => { g with r4 := v } | .r5 => { g with r5 := v } | .r6 => { g with r6 := v } | .r7 => { g with r7 := v }
  | .r8 => { g with r8 := v } | .fp => { g with fp := v } | .ap => { g with ap := v } | .psw => { g with psw := v }
  | .sp => { g with sp := v } | .pcbp => { g with pcbp := v } | .isp => { g with isp := v } | .pc => { g with pc := v }

/-- A register's value. -/
def reg (s : State) (r : Reg) : Word := readReg r s.regs

/-- Write a register; the unused bits of the PSW stay 0 (10_state R48). -/
def setReg (r : Reg) (v : Word) (s : State) : State :=
  { s with regs := writeReg r (if r = .psw then v &&& maskPsw else v) s.regs }

/-- Write the PSW as a microsequence does: bits 31:26 are forced to 0 (10_state R48). -/
def setPsw (v : Word) (s : State) : State := setReg .psw v s

/-- N, Z, V, C (10_state R43). -/
def flags (s : State) : BitVec 4 := pswFlags s.regs.psw

/-- Set N, Z, V, C and no other bit of the PSW (10_state R43). -/
def setFlags (f : BitVec 4) (s : State) : State := setPsw (withFlags f s.regs.psw) s

/-- The current execution level (10_state R40). -/
def currentLevel (s : State) : BitVec 2 := pswCm s.regs.psw

/-- Kernel level (10_state R40). -/
def isKernel (s : State) : Bool := currentLevel s == 0

/-- The level an access presents: kernel while forced (10_state R52, 20_memory R96). -/
def accessLevel (s : State) : BitVec 2 := if s.kernelForced then 0 else currentLevel s

/-- Force or release kernel level on memory accesses (10_state R52). -/
def forceKernel (b : Bool) (s : State) : State := { s with kernelForced := b }

/-- Empty the instruction cache and the queue (20_memory R107). -/
def flushCache (s : State) : State := { s with icache := [], iqueue := [], cacheCorrupt := false }

/-- The value an instruction reads from %psw: in the hazard window the flag bits may be the earlier ones
(70_reset_and_hazards R610; log 24). Two operands of one instruction that are both %psw see the same ones: R610 does not say
whether they must (DESIGN CHOICE, log 24). -/
def readPsw (s : State) : Word :=
  if s.prevFlags = flags s then s.regs.psw
  else if Config.staleFlags s.free then withFlags s.prevFlags s.regs.psw
  else s.regs.psw

/-- The explicit write of %psw (10_state R49, 70_reset_and_hazards R611, 93 U11): ET, TM, ISC, I and R keep their values;
a change of CD leaves the cache contents arbitrary (20_memory R108; log 11) and one of TE leaves the next trace test open
(R42; log 31). -/
def writePsw (v : Word) (s : State) : State :=
  let w := merge maskWritable v s.regs.psw
  let s := if pswCd w = pswCd s.regs.psw then s else { s with cacheCorrupt := true }
  setPsw w { s with traceOpen := s.traceOpen || (pswTe w != pswTe s.regs.psw) }

/-- A register as an instruction writes it (30_encoding R148). -/
def writeOperandReg (r : Reg) (v : Word) (s : State) : State := if r = .psw then writePsw v s else setReg r v s

/-- PSW, PCBP and ISP (10_state R26). -/
def isPrivileged (r : Reg) : Bool := r == .psw || r == .pcbp || r == .isp

end Sys2Proof.Machine
end

