-- ==== Sys2Proof/Machine/Memory.lean ====
section
/-! DEFINITION. Memory, the attributes of a transaction, translation and the memory agent (spec/20_memory.md R70 to
R101). -/

namespace Sys2Proof.Machine

/-! ## Bytes -/

/-- The byte at an address; an unlisted one reads 0 (log 4). -/
def byteAt (m : Memory) (a : Nat) : Byte :=
  match m with
  | [] => 0
  | (k, b) :: rest => if a = k then b else if a < k then 0 else byteAt rest a

/-- Memory with one byte stored; a byte 0 is not listed. -/
def setByte (m : Memory) (a : Nat) (v : Byte) : Memory :=
  match m with
  | [] => if v = 0 then [] else [(a, v)]
  | (k, b) :: rest =>
    if a < k then (if v = 0 then (k, b) :: rest else (a, v) :: (k, b) :: rest)
    else if a = k then (if v = 0 then rest else (k, v) :: rest)
    else (k, b) :: setByte rest a v

/-- The addresses from lo on rise strictly and stay below 2^32, and no byte is 0. -/
def wfFrom (lo : Nat) (m : Memory) : Bool :=
  match m with
  | [] => true
  | (k, b) :: rest => decide (lo ≤ k) && decide (k < 2 ^ 32) && b != 0 && wfFrom (k + 1) rest

/-- The canonical form of a memory. -/
def Memory.wf (m : Memory) : Bool := wfFrom 0 m

/-- The byte at a 32-bit address. -/
def peek (m : Memory) (a : Word) : Byte := byteAt m a.toNat

/-- Store a byte at a 32-bit address. -/
def poke (m : Memory) (a : Word) (v : Byte) : Memory := setByte m a.toNat v

/-- The address of the word a byte is in. -/
def wordAddress (a : Word) : Word := a &&& 0xFFFFFFFC

/-- The words that (address, byte) pairs are of, each once, the latest first. -/
def cachedWords (cells : List (Word × Byte)) : List Word :=
  match cells with
  | [] => []
  | (a, _) :: rest => wordAddress a :: (cachedWords rest).filter (· != wordAddress a)

/-- The bytes other bus masters write (20_memory R101). -/
def busWritten (m : Memory) (ws : List (Word × Byte)) : Memory := ws.foldl (fun m w => poke m w.1 w.2) m

/-! ## Data, big-endian (20_memory R70) -/

/-- The sizes of a data access (20_memory R72). -/
inductive Size where
  | byte | half | word
  deriving DecidableEq, Repr

/-- Its number of bytes. -/
def Size.bytes : Size → Nat
  | .byte => 1
  | .half => 2
  | .word => 4

/-- The low bits of a size (20_memory R76). -/
def truncated (size : Size) (v : Word) : Word :=
  match size with
  | .byte => (v.extractLsb' 0 8).zeroExtend 32
  | .half => (v.extractLsb' 0 16).zeroExtend 32
  | .word => v

/-- The datum of a size at an address, zero-extended; the byte at the address is the most significant. -/
def readData (m : Memory) (size : Size) (a : Word) : Word :=
  match size with
  | .byte => (peek m a).zeroExtend 32
  | .half => (peek m a ++ peek m (a + 1)).zeroExtend 32
  | .word => ((peek m a ++ peek m (a + 1)) ++ peek m (a + 2)) ++ peek m (a + 3)

/-- Store the low bits of v as a datum of a size. -/
def writeData (m : Memory) (size : Size) (a v : Word) : Memory :=
  match size with
  | .byte => poke m a (v.extractLsb' 0 8)
  | .half => poke (poke m a (v.extractLsb' 8 8)) (a + 1) (v.extractLsb' 0 8)
  | .word =>
    poke (poke (poke (poke m a (v.extractLsb' 24 8)) (a + 1) (v.extractLsb' 16 8)) (a + 2) (v.extractLsb' 8 8)) (a + 3)
      (v.extractLsb' 0 8)

/-! ## Accesses (20_memory R90 to R97) -/

/-- The access status codes (20_memory R91). -/
inductive Status where
  | moveTranslated | copWrite | autoVector | copFetch | stopAcknowledge | copBroadcast | copStatus | interlocked
  | addressFetch | operandFetch | write | interruptAck | fetchDiscont | prefetch | fetch | noOperation
  deriving DecidableEq, Repr

/-- The number on the pins SAS3 to SAS0 (20_memory R91). -/
def Status.code : Status → Nat
  | .moveTranslated => 0 | .copWrite => 1 | .autoVector => 2 | .copFetch => 3 | .stopAcknowledge => 4
  | .copBroadcast => 5 | .copStatus => 6 | .interlocked => 7 | .addressFetch => 8 | .operandFetch => 9 | .write => 10
  | .interruptAck => 11 | .fetchDiscont => 12 | .prefetch => 13 | .fetch => 14 | .noOperation => 15

/-- The sizes of a transaction (20_memory R92): those of data, and the double word of an instruction fetch. -/
inductive BusSize where
  | word | doubleWord | half | byte
  deriving DecidableEq, Repr

/-- The number on the pins DSIZE1 and DSIZE0 (20_memory R92). -/
def BusSize.code : BusSize → Nat
  | .word => 0 | .doubleWord => 1 | .half => 2 | .byte => 3

/-- A datum is moved by one transaction of its size (20_memory R72). -/
def Size.bus : Size → BusSize
  | .byte => .byte
  | .half => .half
  | .word => .word

/-- What an access does (20_memory R93, R98). -/
inductive Kind where
  | read | write | fetch
  deriving DecidableEq, Repr

/-- An access violates the alignment of its size (20_memory R82). -/
def misaligned (size : Size) (a : Word) : Bool :=
  match size with
  | .byte => false
  | .half => a.getLsbD 0
  | .word => a.getLsbD 0 || a.getLsbD 1

/-- An address lies in a region. -/
def inRegion (base : Word) (size : Nat) (a : Word) : Bool :=
  decide (base.toNat ≤ a.toNat) && decide (a.toNat < base.toNat + size)

/-- A clause of the translation applies to an access (20_memory R98). -/
def XlatEntry.applies (e : XlatEntry) (kind : Kind) (level : BitVec 2) (a : Word) : Bool :=
  inRegion e.vbase e.size a &&
    (match kind with
      | .read => e.readLevels
      | .write => e.writeLevels
      | .fetch => e.fetchLevels).getLsbD level.toNat

/-- translate(vaddr, level, kind): the first clause that applies; none where the MMU faults (20_memory R98,
92_eei_decisions D10). -/
def lookupXlat (kind : Kind) (level : BitVec 2) (a : Word) : List XlatEntry → Option Word
  | [] => none
  | e :: rest => if e.applies kind level a then some (e.pbase + (a - e.vbase)) else lookupXlat kind level a rest

/-- The MMU translates: virtual mode is on and there is one (20_memory R97). -/
def translating (s : State) : Bool := s.virtualMode && s.inputs.mmuPresent

/-- The physical address of an access (20_memory R97, R98). -/
def translate (s : State) (kind : Kind) (a : Word) : Option Word :=
  if translating s then lookupXlat kind (accessLevel s) a s.inputs.xlat else some a

/-- A clause of the memory agent applies to a transaction (20_memory R90); v is the datum a write carries. -/
def Reply.applies (r : Reply) (s : State) (st : Status) (size : BusSize) (kind : Kind) (a v : Word) : Bool :=
  inRegion r.base r.size a && r.statuses.getLsbD st.code && r.sizes.getLsbD size.code
    && r.levels.getLsbD (accessLevel s).toNat && r.virtuals.getLsbD s.virtualMode.toNat
    && (match kind with
      | .write => r.writes && (r.datum.isNone || r.datum == some v)
      | _ => r.reads && r.datum.isNone)

/-- The memory agent's answer, none where it answers as memory (20_memory R81, R90). -/
def reply (s : State) (st : Status) (size : BusSize) (kind : Kind) (a v : Word) : Option Answer :=
  (s.inputs.replies.find? fun r => r.applies s st size kind a v).map (·.answer)

/-- What a transaction reaches: memory at a physical address, or a device that drives a word. -/
inductive Reached where
  | memory (p : Word)
  | device (w : Word)
  deriving DecidableEq, Repr

/-- What a transaction reaches, none where it ends in a memory exception (20_memory R80). One that is not faulted is
acknowledged at once: a transaction that is never acknowledged and never faulted (93 U32) is not among the answers (DESIGN
CHOICE, log 9). -/
def access (s : State) (st : Status) (size : BusSize) (kind : Kind) (a v : Word) : Option Reached :=
  match reply s st size kind a v with
  | some .fault => none
  | some (.drive w _) => some (.device w)
  | none => (translate s kind a).map .memory

/-- The second word of a double word at a, delivered with the first where memory or the device answers with BLKFTCH
(20_memory R118; the word four above, 90_conflicts C23). -/
def blockSecond (s : State) (st : Status) (size : BusSize) (a : Word) : Option Word :=
  if size != .doubleWord then none
  else
    match reply s st size .fetch a 0 with
    | some .fault => none
    | some (.drive _ next) => next
    | none => (translate s .fetch a).bind fun p =>
        if s.inputs.blkftch.any fun r => inRegion r.1 r.2 p then some (readData s.mem .word (p + 4)) else none

/-- What a read reaches; alignment is checked first, before any transaction (20_memory R82). -/
def readReach (s : State) (st : Status) (size : Size) (a : Word) : Option Reached :=
  if misaligned size a then none else access s st size.bus .read a 0

/-- What a write of the low bits of v reaches; alignment is checked first (20_memory R82). -/
def writeReach (s : State) (st : Status) (size : Size) (a v : Word) : Option Reached :=
  if misaligned size a then none else access s st size.bus .write a (truncated size v)

/-- The datum a transaction delivers, zero-extended. -/
def received (m : Memory) (size : Size) (q : Reached) : Word :=
  match q with
  | .memory p => readData m size p
  | .device w => truncated size w

/-- Memory after a datum was written; a device keeps its datum from memory. -/
def deposited (m : Memory) (size : Size) (q : Reached) (v : Word) : Memory :=
  match q with
  | .memory p => writeData m size p v
  | .device _ => m

/-- MemRead: the datum read, zero-extended, or none for a memory exception (00_scope R11). -/
def memRead (s : State) (st : Status) (size : Size) (a : Word) : Option Word :=
  (readReach s st size a).map (received s.mem size)

/-- MemWrite, or none for a memory exception (00_scope R11). -/
def memWrite (s : State) (st : Status) (size : Size) (a v : Word) : Option State :=
  (writeReach s st size a v).map fun q => { s with mem := deposited s.mem size q v }

end Sys2Proof.Machine
end

