-- ==== Sys2Proof/Machine/Ops.lean ====
section
/-! DEFINITION. Exceptions and the microsequences that take them, process switches, interrupts, and how an
instruction ends (spec/60_exceptions.md, spec/46_operating_system.md R470 to R482). -/

namespace Sys2Proof.Machine

/-! ## Exceptions (60_exceptions R500 to R509) -/

/-- The four levels of severity (60_exceptions R501). -/
inductive Severity where
  | reset | process | stack | normal
  deriving DecidableEq, Repr

/-- The exceptions (60_exceptions R505 to R508). -/
inductive Exn where
  | integerZeroDivide | trace | illegalOpcode | reservedOpcode | invalidDescriptor | externalMemory | gateVector
  | illegalLevelChange | reservedDataType | integerOverflow | privilegedOpcode | breakpoint | privilegedRegister
  | stackBound | stackFault | interruptIdFetch
  | oldPcb | gatePcb | newPcb
  | resetOldPcb | systemData | interruptStack | externalReset | resetNewPcb | resetGateVector
  deriving DecidableEq, Repr

/-- The class of an exception (60_exceptions R505 to R508). -/
def Exn.severity : Exn → Severity
  | .integerZeroDivide | .trace | .illegalOpcode | .reservedOpcode | .invalidDescriptor | .externalMemory
  | .gateVector | .illegalLevelChange | .reservedDataType | .integerOverflow | .privilegedOpcode | .breakpoint
  | .privilegedRegister => .normal
  | .stackBound | .stackFault | .interruptIdFetch => .stack
  | .oldPcb | .gatePcb | .newPcb => .process
  | .resetOldPcb | .systemData | .interruptStack | .externalReset | .resetNewPcb | .resetGateVector => .reset

/-- The internal state code of an exception (60_exceptions R505 to R508). -/
def Exn.code : Exn → BitVec 4
  | .integerZeroDivide => 0 | .trace => 1 | .illegalOpcode => 2 | .reservedOpcode => 3 | .invalidDescriptor => 4
  | .externalMemory => 5 | .gateVector => 6 | .illegalLevelChange => 7 | .reservedDataType => 8
  | .integerOverflow => 9 | .privilegedOpcode => 10 | .breakpoint => 14 | .privilegedRegister => 15
  | .stackBound => 0 | .stackFault => 1 | .interruptIdFetch => 3
  | .oldPcb => 0 | .gatePcb => 1 | .newPcb => 4
  | .resetOldPcb => 0 | .systemData => 1 | .interruptStack => 2 | .externalReset => 3 | .resetNewPcb => 4
  | .resetGateVector => 6

/-- The faults after which the flags of the saved PSW are any value (60_exceptions R511). -/
def Exn.scramblesFlags : Exn → Bool
  | .integerZeroDivide | .invalidDescriptor | .reservedDataType => true
  | _ => false

/-- A computation of an instruction or a microsequence: it goes on, or it raises an exception in the state its
earlier steps left (60_exceptions R502). -/
abbrev Run := Except (Exn × State)

/-! ## Accesses of microsequences and instructions -/

/-- The turn of the environment before a transaction: other bus masters write, and the inputs may change (20_memory
R101). RESETR asserted here cuts off what is under way; the writes already made stay (60_exceptions R514,
70_reset_and_hazards R600). -/
def busTurn (s : State) : Run State :=
  match s.bus with
  | [] => .ok s
  | e :: rest =>
    let s := { s with bus := rest, mem := busWritten s.mem e.writes, inputs := e.inputs.getD s.inputs }
    if s.inputs.resetr then .error (.externalReset, s) else .ok s

/-- The turn before a data access; a misaligned one starts no transaction (20_memory R82). -/
def dataTurn (size : Size) (a : Word) (s : State) : Run State := if misaligned size a then .ok s else busTurn s

/-- A write without a turn before it; a memory exception raises e. -/
def put (st : Status) (size : Size) (e : Exn) (a v : Word) (s : State) : Run State :=
  match memWrite s st size a v with
  | some s' => .ok s'
  | none => .error (e, s)

/-- Read a datum; a memory exception raises e. -/
def loadAs (st : Status) (size : Size) (e : Exn) (a : Word) (s : State) : Run (Word × State) := do
  let s ← dataTurn size a s
  match memRead s st size a with
  | some v => .ok (v, s)
  | none => .error (e, s)

/-- Write a datum; a memory exception raises e. -/
def storeAs (st : Status) (size : Size) (e : Exn) (a v : Word) (s : State) : Run State := do
  let s ← dataTurn size a s
  put st size e a v s

/-- Read a word as data. -/
def load (e : Exn) (a : Word) (s : State) : Run (Word × State) := loadAs .operandFetch .word e a s

/-- Write a word. -/
def store (e : Exn) (a v : Word) (s : State) : Run State := storeAs .write .word e a v s

/-- Write words at 4-byte steps. -/
def storeWords (e : Exn) (a : Word) (vs : List Word) (s : State) : Run State :=
  match vs with
  | [] => .ok s
  | v :: rest => do
    let s ← store e a v s
    storeWords e (a + 4) rest s

/-- Load registers from words at 4-byte steps. -/
def loadRegs (e : Exn) (a : Word) (rs : List Reg) (s : State) : Run State :=
  match rs with
  | [] => .ok s
  | r :: rest => do
    let (v, s) ← load e a s
    loadRegs e (a + 4) rest (setReg r v s)

/-- r0 to r8. -/
def generalRegs : List Reg := [.r0, .r1, .r2, .r3, .r4, .r5, .r6, .r7, .r8]

/-! ## Transfers of control -/

/-- The next fetch follows a discontinuity and the queue is discarded (20_memory R119). -/
def jumped (s : State) : State := { s with discont := true, iqueue := [] }

/-- Go to a target (10_state R29). -/
def jump (target : Word) (s : State) : State := jumped (setReg .pc target s)

/-- Go on after an instruction of a length (10_state R29); the queue holds what is behind it. -/
def advance (len : Nat) (s : State) : State :=
  { setReg .pc (s.regs.pc + BitVec.ofNat 32 len) s with discont := false }

/-- The machine at the end of a microsequence: the next instruction is fetched anew, and the flags it may read from
%psw are settled (70_reset_and_hazards R610 speaks of instructions only). -/
def settle (s : State) : State :=
  { jumped s with phase := .running, kernelForced := false, flagsAtStart := flags s }

/-! ## Gates (46_operating_system R472, R473) -/

/-- The stack bounds test of GATE and on-normal, at kernel level; the comparison is unsigned. -/
def checkBounds (s : State) : Run State := do
  let s := forceKernel true s
  let (lo, s) ← load .gatePcb (s.regs.pcbp + 12) s
  let (hi, s) ← load .gatePcb (s.regs.pcbp + 16) s
  if s.regs.sp.ult lo then .error (.stackBound, s)
  else if hi.ule s.regs.sp then .error (.stackBound, s)
  else .ok (forceKernel false s)

/-- Write a return PC and the PSW at the top of the stack; SP does not move yet. -/
def pushContext (pc : Word) (image : Word → Word) (s : State) : Run State := do
  let s ← store .stackFault s.regs.sp pc s
  let s := setPsw (image s.regs.psw) s
  store .stackFault (s.regs.sp + 4) s.regs.psw s

/-- The second entry point of GATE: new PSW and PC from the two levels of tables (46_operating_system R473). -/
def gateMechanism (index1 index2 : Word) (onfault : Exn) (s : State) : Run State := do
  let s := forceKernel true s
  let (table, s) ← load onfault index1 s
  let entry := table + index2
  let (image, s) ← load onfault entry s
  let old := s.regs.psw
  let image := withCodes 7 true 3 (withR (pswR old) (withIpl (pswIpl old) (withPm (pswCm old) image)))
  let (pc, s) ← load onfault (entry + 4) s
  let s := setPsw image (setReg .pc pc s)
  .ok (forceKernel false (setReg .sp (s.regs.sp + 8) s))

/-! ## Process switches (46_operating_system R476 to R478) -/

/-- XSWITCH_ONE: save the context in the current PCB (46_operating_system R476). -/
def xswitchOne (tempa : Word) (onfault : Exn) (s : State) : Run State := do
  let s ← store onfault (s.regs.pcbp + 4) s.regs.pc s
  let (image, s) ← load onfault tempa s
  let s := setPsw (withR (pswR image) s.regs.psw) s
  let s ← store onfault s.regs.pcbp s.regs.psw s
  let s ← store onfault (s.regs.pcbp + 8) s.regs.sp s
  if pswR s.regs.psw then do
    let s ← store onfault (s.regs.pcbp + 20) s.regs.ap s
    let s ← store onfault (s.regs.pcbp + 24) s.regs.fp s
    let s ← storeWords onfault (s.regs.pcbp + 28) (generalRegs.map (reg s)) s
    .ok (setReg .fp (s.regs.pcbp + 52) s)
  else .ok s

/-- A PSW image as XSWITCH_TWO loads it: R, ISC and ET stay, TM becomes 0 (46_operating_system R477). -/
def loadImage (image old : Word) : Word := withCodes (pswIsc old) false (pswEt old) (withR (pswR old) image)

/-- XSWITCH_TWO: load the context of the new PCB (46_operating_system R477). -/
def xswitchTwo (tempa : Word) (onfault : Exn) (s : State) : Run State := do
  let s := setReg .pcbp tempa s
  let (image, s) ← load onfault tempa s
  let s := setPsw (loadImage image s.regs.psw) s
  let (pc, s) ← load onfault (s.regs.pcbp + 4) s
  let s := setReg .pc pc s
  let (sp, s) ← load onfault (s.regs.pcbp + 8) s
  let s := setReg .sp sp s
  let s := if pswI s.regs.psw then setReg .pcbp (s.regs.pcbp + 12) (setPsw (clearI s.regs.psw) s) else s
  .ok (if pswCfd s.regs.psw then s else flushCache s)

/-- Set ISC, TM and ET. -/
def setCodes (isc : BitVec 4) (tm : Bool) (et : BitVec 2) (s : State) : State :=
  setPsw (withCodes isc tm et s.regs.psw) s

/-- Push the PCBP on the interrupt stack (10_state R56). -/
def pushPcbp (s : State) : Run State := do
  let s ← store .interruptStack s.regs.isp s.regs.pcbp s
  .ok (setReg .isp (s.regs.isp + 4) s)

/-! ## The exception microsequences (60_exceptions R520 to R523) -/

/-- Record the cause (60_exceptions R502). -/
def recordCause (e : Exn) (s : State) : State := setPsw (withIsc e.code s.regs.psw) s

/-- On-normal (60_exceptions R520). -/
def onNormal (s : State) : Run State := do
  let s ← checkBounds s
  let s ← pushContext s.regs.pc (fun w => withCodes (pswIsc w) false 3 w) s
  gateMechanism 0 ((pswIsc s.regs.psw).zeroExtend 32 <<< 3) .resetGateVector s

/-- On-stack (60_exceptions R521). -/
def onStack (code : BitVec 4) (s : State) : Run State := do
  let s := forceKernel true s
  let (tempa, s) ← load .systemData 0x88 s
  let s ← pushPcbp s
  let s := setCodes code (pswTm s.regs.psw) 2 s
  let s ← xswitchOne tempa .oldPcb s
  let s ← xswitchTwo tempa .newPcb s
  .ok (forceKernel false (setCodes 7 false 3 s))

/-- On-process (60_exceptions R522). -/
def onProcess (s : State) : Run State := do
  let s := forceKernel true s
  let (tempa, s) ← load .systemData 0x84 s
  let s ← pushPcbp s
  let s ← xswitchTwo tempa .resetNewPcb s
  .ok (forceKernel false (setCodes (pswIsc s.regs.psw) false 3 s))

/-- On-reset (60_exceptions R523). -/
def onReset (external : Bool) (s : State) : Run State := do
  let s := flushCache s
  let s := if external then setPsw (withR false s.regs.psw) s else s
  let s := { forceKernel true s with virtualMode := false }
  let (tempa, s) ← load .systemData 0x80 s
  let s ← xswitchTwo tempa .resetNewPcb s
  .ok (forceKernel false (setCodes (pswIsc s.regs.psw) false 3 s))

/-- After a reset r0 to r8, FP, AP and ISP hold no known value (10_state R67; log 32). -/
def forgetRegisters (s : State) : State :=
  let v := Config.resetRegister s.free
  { s with regs := { s.regs with
      r0 := v 0, r1 := v 1, r2 := v 2, r3 := v 3, r4 := v 4, r5 := v 5, r6 := v 6, r7 := v 7, r8 := v 8
      fp := v 9, ap := v 10, isp := v 14 } }

/-- Run on-reset; if it fails it starts again at the next step, with the new cause (60_exceptions R575), or after an
external reset if it was one that cut it off. -/
def runReset (external : Bool) (s : State) : State :=
  match onReset external s with
  | .ok s => { settle (forgetRegisters s) with pendingOverflow := false, traceOpen := false }
  | .error (e, s) => { recordCause e s with phase := .resetting (e == .externalReset) }

/-- Take a reset exception (60_exceptions R502). An external reset abandons what is under way; its sequence runs when
RESETR is released (70_reset_and_hazards R600). -/
def raiseReset (e : Exn) (s : State) : State :=
  if e = .externalReset then { s with phase := .resetting true } else runReset false (recordCause e s)

/-- Take a process exception; a failure ripples up (60_exceptions R513). -/
def raiseProcess (e : Exn) (s : State) : State :=
  match onProcess (recordCause e s) with
  | .ok s => settle s
  | .error (e, s) => raiseReset e s

/-- Take a stack exception; a failure ripples up (60_exceptions R513). -/
def raiseStack (e : Exn) (s : State) : State :=
  match onStack e.code (recordCause e s) with
  | .ok s => settle s
  | .error (e, s) => if e.severity = .process then raiseProcess e s else raiseReset e s

/-- The state on-normal finds: the cause recorded, and for three faults the flags open (60_exceptions R502, R511). -/
def enterNormal (e : Exn) (s : State) : State :=
  recordCause e (if e.scramblesFlags then setFlags (Config.faultFlags s.free) s else s)

/-- Take a normal exception; a failure ripples up (60_exceptions R513). -/
def raiseNormal (e : Exn) (s : State) : State :=
  match onNormal (enterNormal e s) with
  | .ok s => settle s
  | .error (e, s) =>
    match e.severity with
    | .stack => raiseStack e s
    | .process => raiseProcess e s
    | _ => raiseReset e s

/-- TAKING AN EXCEPTION: record its cause and run the microsequence of its class (60_exceptions R502). The PC is what
the instruction left: its own address for a fault, the next instruction's for a trap (R510). -/
def raise (e : Exn) (s : State) : State :=
  match e.severity with
  | .normal => raiseNormal e s
  | .stack => raiseStack e s
  | .process => raiseProcess e s
  | .reset => raiseReset e s

/-! ## The end of an instruction -/

/-- A trace trap is due: TE and TM are set at the end of the instruction (60_exceptions R560); after an explicit change
of TE it may or may not be (10_state R42; log 31). -/
def traceDue (s : State) : Bool :=
  if s.traceOpen then Config.traceTaken s.free else pswTe s.regs.psw && pswTm s.regs.psw

/-- The trace test at the end of an instruction (60_exceptions R560). -/
def traceTest (s : State) : State :=
  if traceDue s then raise .trace { s with traceOpen := false } else { s with traceOpen := false }

/-- An instruction has completed: at most one trap is taken (60_exceptions R514, R560). overflow says that it raised
an enabled integer overflow; the trap may come one instruction late (70_reset_and_hazards R612). Where the trap is late
and this instruction is itself traced, its trace trap comes at once and the overflow trap after the first instruction of
the trace handler: the rules do not say which comes first (DESIGN CHOICE, log 25). Where a late trap is pending and this
instruction overflows too, the pending trap is taken and its own overflow is forgotten: R612 has at most one overflow trap at
one instruction end and does not say whether the second may still come later (DESIGN CHOICE, log 25). -/
def complete (overflow : Bool) (s : State) : State :=
  if s.pendingOverflow then raise .integerOverflow { s with pendingOverflow := false }
  else if overflow then
    if Config.overflowLate s.free then traceTest { s with pendingOverflow := true } else raise .integerOverflow s
  else traceTest s

/-- An instruction raised a fault: a late overflow trap is dropped (70_reset_and_hazards R612; log 25) and the exception
is taken. -/
def fault (e : Exn) (s : State) : State := raise e { s with pendingOverflow := false }

/-- The outcome of an instruction's computation. -/
def conclude (r : Run State) : Outcome :=
  match r with
  | .ok s => .next s
  | .error (e, s) => .next (fault e s)

/-! ## Block moves (46_operating_system R478) -/

/-- The end of a process switch: RETPS loads the registers it saved, kernel level is released, and an instruction
completes (46_operating_system R479, R480; 60_exceptions R533). -/
def endSwitch (owner : Switch) (s : State) : Run State :=
  match owner with
  | .interrupt => .ok (settle s)
  | .callps => .ok (complete false (jumped { forceKernel false s with phase := .running }))
  | .retps => do
    let s ← if pswR s.regs.psw then do
        let s ← loadRegs .newPcb (s.regs.pcbp + 24) [.fp] s
        let s ← loadRegs .newPcb (s.regs.pcbp + 28) generalRegs s
        loadRegs .newPcb (s.regs.pcbp + 20) [.ap] s
      else .ok s
    .ok (complete false (jumped { forceKernel false s with phase := .running }))

/-- Read the size of the next block into r2 and move r0 past it (46_operating_system R478). -/
def nextBlock (owner : Switch) (s : State) : Run State := do
  let (size, s) ← load .newPcb s.regs.r0 s
  .ok { setReg .r0 (s.regs.r0 + 4) (setReg .r2 size s) with phase := .blockMoves owner false }

/-- XSWITCH_THREE up to the first size word (46_operating_system R478). -/
def xswitchThree (owner : Switch) (s : State) : Run State :=
  if pswR s.regs.psw then nextBlock owner (setReg .r0 (s.regs.pcbp + 64) s) else endSwitch owner s

/-- One word of MOVBLW's loop; a memory exception raises e and leaves r0, r1, r2 (40_data_transfer R218). -/
def copyWord (e : Exn) (s : State) : Run State := do
  let (w, s) ← load e s.regs.r0 s
  let s ← store e s.regs.r1 w s
  .ok (setReg .r1 (s.regs.r1 + 4) (setReg .r0 (s.regs.r0 + 4) (setReg .r2 (s.regs.r2 - 1) s)))

/-- One step of XSWITCH_THREE: a destination address, a word, or the next size (46_operating_system R478). -/
def moveStep (owner : Switch) (copying : Bool) (s : State) : Run State :=
  if copying then
    if s.regs.r2 = 0 then nextBlock owner s else copyWord .newPcb s
  else if s.regs.r2 = 0 then endSwitch owner (setReg .r0 (s.regs.r0 + 4) s)
  else do
    let (dst, s) ← load .newPcb s.regs.r0 s
    .ok { setReg .r0 (s.regs.r0 + 4) (setReg .r1 dst s) with phase := .blockMoves owner true }

/-! ## Interrupts (60_exceptions R530 to R534) -/

/-- The requested level: the inverted IPL pins (60_exceptions R530). -/
def requestLevel (s : State) : BitVec 4 := ~~~s.inputs.ipl

/-- The acceptance test (60_exceptions R530). -/
def interruptAccepted (s : State) : Bool := s.inputs.nmint || (pswIpl s.regs.psw).ult (requestLevel s)

/-- The address of the interrupt acknowledge transaction (20_memory R114). -/
def acknowledgeAddress (s : State) : Word :=
  ((BitVec.ofBool (!s.inputs.intopt) ++ requestLevel s) ++ (3 : BitVec 2)).zeroExtend 32

/-- The byte a device drives on the interrupt acknowledge read; a bus exception raises e (20_memory R114). -/
def acknowledge (e : Exn) (s : State) : Run (Word × State) := do
  let s ← busTurn s
  match reply s .interruptAck .byte .read (acknowledgeAddress s) 0 with
  | some .fault => .error (e, s)
  | some (.drive w _) => .ok (truncated .byte w, s)
  | none => .ok (s.inputs.intId.zeroExtend 32, s)

/-- The interrupt-ID; the auto-vector acknowledge cannot fault (60_exceptions R532, 20_memory R114). Where a bus event changes
the inputs before the acknowledge, NMINT and AVEC count as they were before it, at the boundary, IPL and INTOPT as after it:
the rules fix only that these two are latched at the acknowledge (DESIGN CHOICE, log 45). -/
def interruptId (s : State) : Run (Word × State) :=
  if s.inputs.nmint then do
    let s ← busTurn s
    .ok (0, s)
  else if s.inputs.avec then do
    let s ← busTurn s
    .ok ((BitVec.ofBool (!s.inputs.intopt) ++ requestLevel s).zeroExtend 32, s)
  else acknowledge .interruptIdFetch s

/-- The full-interrupt sequence (60_exceptions R533). -/
def fullInterrupt (id : Word) (s : State) : Run State := do
  let s := forceKernel true s
  let (tempa, s) ← load .systemData (0x8C + id * 4) s
  let s ← pushPcbp s
  let s := setCodes 0 false 1 s
  let s ← xswitchOne tempa .oldPcb s
  let s ← xswitchTwo tempa .newPcb s
  xswitchThree .interrupt (setCodes 7 false 3 s)

/-- The PSW a quick interrupt installs from a table entry (60_exceptions R534). -/
def quickImage (old image : Word) : Word := withCodes 7 true 3 (withR (pswR old) (withIpl 15 (withPm (pswCm old) image)))

/-- The quick-interrupt sequence (60_exceptions R534). -/
def quickInterrupt (id : Word) (s : State) : Run State := do
  let entry := 0x48C + id * 8
  let s ← pushContext s.regs.pc (withCodes 1 false 2) s
  let s := forceKernel true s
  let (image, s) ← load .gateVector entry s
  let (pc, s) ← load .gateVector (entry + 4) s
  let s := setPsw (quickImage s.regs.psw image) (setReg .pc pc s)
  .ok (settle (setReg .sp (s.regs.sp + 8) s))

/-- On-interrupt (60_exceptions R532 to R534). -/
def onInterrupt (s : State) : Run State := do
  let (id, s) ← interruptId s
  if pswQie s.regs.psw then quickInterrupt id s else fullInterrupt id s

/-- Take an accepted interrupt (60_exceptions R530). A late overflow trap stays pending across it, also where its sequence
ends in an exception (DESIGN CHOICE, log 25). -/
def takeInterrupt (s : State) : State :=
  match onInterrupt { s with phase := .running } with
  | .ok s => s
  | .error (e, s) => raise e s

end Sys2Proof.Machine
end

