-- ==== Sys2Proof/Machine/Flags.lean ====
section
/-! DEFINITION. Results and condition flags: what an operation computes from its operands
(spec/40_data_transfer.md R200, R201; spec/41_arithmetic.md R240 to R246). -/

namespace Sys2Proof.Machine

/-! ## Types -/

/-- The size of an operand type (30_encoding R135). -/
def typeSize : OType → Size
  | .ubyte | .sbyte => .byte
  | .uhalf | .shalf => .half
  | .uword | .sword => .word

/-- Its number of bits, the N of the flag rules (40_data_transfer R200). -/
def typeBits : OType → Nat
  | .ubyte | .sbyte => 8
  | .uhalf | .shalf => 16
  | .uword | .sword => 32

/-- Whether it is signed (30_encoding R135, R142). -/
def isSigned : OType → Bool
  | .sbyte | .shalf | .sword => true
  | .ubyte | .uhalf | .uword => false

/-- Extension to 32 bits by a type (20_memory R75). -/
def extend (t : OType) (v : Word) : Word := if isSigned t then sextLow (typeBits t) v else zextLow (typeBits t) v

/-- The integer a 32-bit pattern stands for under a type (30_encoding R138). -/
def intOf (t : OType) (v : Word) : Int := if isSigned t then v.toInt else v.toNat

/-! ## The helpers of 40_data_transfer R200 -/

/-- msb: bit N - 1. -/
def msbOf (t : OType) (x : Word) : Bool := x.getLsbD (typeBits t - 1)

/-- zero: the low N bits are 0. -/
def isZero (t : OType) (x : Word) : Bool := zextLow (typeBits t) x == 0

/-- fits: an integer is representable in a type. -/
def fits (t : OType) (i : Int) : Bool :=
  if isSigned t then decide (-(2 ^ (typeBits t - 1)) ≤ i) && decide (i < 2 ^ (typeBits t - 1))
  else decide (0 ≤ i) && decide (i < 2 ^ typeBits t)

/-- truncV: a 32-bit result must be truncated to fit. -/
def truncates (t : OType) (x : Word) : Bool := !fits t (intOf t x)

/-- N, Z, V, C as bits 3 to 0, the order of PSW bits 21 to 18 (10_state R33). -/
def packFlags (n z v c : Bool) : BitVec 4 := ((BitVec.ofBool n ++ BitVec.ofBool z) ++ BitVec.ofBool v) ++ BitVec.ofBool c

/-! ## Values and results -/

/-- A source operand as an operation receives it: its 32-bit pattern and its integer value (30_encoding R138). -/
structure Value where
  bits : Word
  int : Int
  deriving DecidableEq, Repr

/-- What an operation yields: the 32-bit intermediate result, the flags its rule gives, whether it is one that traps
on overflow and overflowed (41_arithmetic R244), and whether it is a division by zero (41_arithmetic R247). -/
structure Result where
  value : Word
  flags : BitVec 4
  overflow : Bool := false
  zeroDivide : Bool := false
  deriving DecidableEq, Repr

/-- Case 1 (40_data_transfer R200). -/
def caseOne (t : OType) (x : Word) : Result :=
  { value := x, flags := packFlags (msbOf t x) (isZero t x) (truncates t x) false }

/-- An arithmetic result: N and Z of the exact integer (41_arithmetic R243), V and C given. -/
def arithmetic (i : Int) (v c : Bool) (overflow : Bool) : Result :=
  { value := BitVec.ofInt 32 i, flags := packFlags (decide (i < 0)) (decide (i = 0)) v c, overflow := overflow }

/-- C of an addition (41_arithmetic R241). -/
def carry (t : OType) (a b : Word) : Bool :=
  decide (2 ^ typeBits t ≤ a.toNat % 2 ^ typeBits t + b.toNat % 2 ^ typeBits t)

/-- C of a subtraction x - y (41_arithmetic R242). -/
def borrow (t : OType) (x y : Word) : Bool := decide (x.toNat % 2 ^ typeBits t < y.toNat % 2 ^ typeBits t)

/-! ## Arithmetic operations. The destination's type is t; d is the first operand of the operation (dst, or src2). -/

/-- Addition (41_arithmetic R250 to R255, R262). -/
def addResult (t : OType) (d s : Value) : Result :=
  arithmetic (d.int + s.int) (!fits t (d.int + s.int)) (carry t d.bits s.bits) (!fits t (d.int + s.int))

/-- Subtraction (41_arithmetic R256 to R261, R265). -/
def subResult (t : OType) (d s : Value) : Result :=
  arithmetic (d.int - s.int) (!fits t (d.int - s.int)) (borrow t d.bits s.bits) (!fits t (d.int - s.int))

/-- Negation; no trap (40_data_transfer R210). -/
def negResult (t : OType) (s : Value) : Result :=
  arithmetic (-s.int) (!fits t (-s.int)) (borrow t 0 s.bits) false

/-- Case 3: C is 0 and V says that the result does not fit (41_arithmetic R268). -/
def caseThree (t : OType) (i : Int) : Result := arithmetic i (!fits t i) false (!fits t i)

/-- V in case 4: open for a signed word destination when the result does not fit but its absolute value is below
2^32 (41_arithmetic R271; log 21). -/
def caseFourV (free : Nat) (t : OType) (i : Int) : Bool :=
  if fits t i then false
  else if t = .sword ∧ i.natAbs < 2 ^ 32 then Config.caseFourOverflow free
  else true

/-- Case 4 (41_arithmetic R271). -/
def caseFour (free : Nat) (t : OType) (i : Int) : Result := arithmetic i (caseFourV free t i) false (caseFourV free t i)

/-- A division by zero yields nothing (41_arithmetic R247). -/
def zeroDivision : Result := { value := 0, flags := 0, zeroDivide := true }

/-- Multiplication, two-address (41_arithmetic R268). -/
def mulResult (t : OType) (d s : Value) : Result := caseThree t (d.int * s.int)

/-- Division, two-address: the quotient is rounded toward zero (41_arithmetic R246, R274). -/
def divResult (t : OType) (d s : Value) : Result :=
  if s.int = 0 then zeroDivision else caseThree t (d.int.tdiv s.int)

/-- Modulo, two-address: the remainder has the sign of the dividend (41_arithmetic R246, R280). -/
def modResult (t : OType) (d s : Value) : Result :=
  if s.int = 0 then zeroDivision else caseThree t (d.int.tmod s.int)

/-- Multiplication, three-address (41_arithmetic R271). -/
def mulResult3 (free : Nat) (t : OType) (d s : Value) : Result := caseFour free t (d.int * s.int)

/-- Division, three-address (41_arithmetic R277). -/
def divResult3 (free : Nat) (t : OType) (d s : Value) : Result :=
  if s.int = 0 then zeroDivision else caseFour free t (d.int.tdiv s.int)

/-- Modulo, three-address (41_arithmetic R283). -/
def modResult3 (free : Nat) (t : OType) (d s : Value) : Result :=
  if s.int = 0 then zeroDivision else caseFour free t (d.int.tmod s.int)

/-! ## Moves, logic, shifts, fields -/

/-- Move (40_data_transfer R202). -/
def moveResult (t : OType) (s : Value) : Result := caseOne t s.bits

/-- Move complemented (40_data_transfer R207). -/
def complementResult (t : OType) (s : Value) : Result := caseOne t (~~~s.bits)

/-- AND (42_logical R300, R301). -/
def andResult (t : OType) (d s : Value) : Result := caseOne t (d.bits &&& s.bits)

/-- OR (42_logical R300, R307). -/
def orResult (t : OType) (d s : Value) : Result := caseOne t (d.bits ||| s.bits)

/-- Exclusive OR (42_logical R300, R313). -/
def xorResult (t : OType) (d s : Value) : Result := caseOne t (d.bits ^^^ s.bits)

/-- The five low bits of a count, width or offset (40_data_transfer R221, 42_logical R335). -/
def lowFive (v : Value) : Nat := (v.bits.extractLsb' 0 5).toNat

/-- Left shift: LLSx3 and ALSW3 compute the same (42_logical R335, 41_arithmetic R286). -/
def leftShiftResult (t : OType) (s count : Value) : Result := caseOne t (s.bits <<< lowFive count)

/-- Logical right shift (42_logical R339). -/
def rightShiftResult (t : OType) (s count : Value) : Result := caseOne t (s.bits >>> lowFive count)

/-- Rotate right (42_logical R340). -/
def rotateResult (t : OType) (s count : Value) : Result := caseOne t (s.bits.rotateRight (lowFive count))

/-- Bits 31 down to N - 1 are not all equal (41_arithmetic R287). -/
def signTruncated (t : OType) (x : Word) : Bool := sextLow (typeBits t) x != x

/-- Arithmetic right shift: the source is sign-extended from the size of its own type ts whatever its signedness
(41_arithmetic R287). Of an immediate with more bits than the type only the low ones are taken: R287 writes sext_8n of the
32-bit value, 00_scope R11 defines sext_N for N bits only, and 30_encoding R139 does not truncate an immediate (DESIGN
CHOICE, log 43). -/
def arithmeticShiftResult (ts t : OType) (s count : Value) : Result :=
  let x := (sextLow (typeBits ts) s.bits).sshiftRight (lowFive count)
  { value := x, flags := packFlags (msbOf t x) (isZero t x) (signTruncated t x) false }

/-- The w + 1 low bits set (40_data_transfer R221). -/
def fieldMask (w : Nat) : Word := BitVec.ofNat 32 (2 ^ (w + 1) - 1)

/-- Extract a field (40_data_transfer R222); V compares sizes, the spec's own reading (log 42). -/
def extractResult (t : OType) (width offset s : Value) : Result :=
  let w := lowFive width
  let x := s.bits.rotateRight (lowFive offset) &&& fieldMask w
  { value := x, flags := packFlags (msbOf t x) (isZero t x) (decide (typeBits t < w + 1)) false }

/-- Insert a field (40_data_transfer R225); V compares sizes, the spec's own reading (log 42), and N is the bit at the
destination's size (90_conflicts C40, log 7). -/
def insertResult (t : OType) (width offset s d : Value) : Result :=
  let w := lowFive width
  let o := lowFive offset
  let x := (d.bits &&& ~~~(fieldMask w).rotateLeft o) ||| (s.bits &&& fieldMask w).rotateLeft o
  let v := decide (typeBits t < 32) && decide (typeBits t < o + w + 1)
  { value := x, flags := packFlags (msbOf t x) (isZero t x) v false }

/-! ## Flags without a result -/

/-- Compare (42_logical R319): a is src1, b is src2. -/
def compareFlags (a b : Value) : BitVec 4 :=
  packFlags (b.bits.slt a.bits) (b.bits == a.bits) false (b.bits.ult a.bits)

/-- Test (42_logical R323). -/
def testFlags (s : Value) : BitVec 4 := packFlags (s.bits.slt 0) (s.bits == 0) false false

/-- Bit test, at the size of src2's type (42_logical R327). -/
def bitFlags (t : OType) (a b : Value) : BitVec 4 :=
  packFlags (msbOf t (b.bits &&& a.bits)) (isZero t (b.bits &&& a.bits)) false false

/-- Case 7, the flags of a word returned, and of MOVAW-like words of full size (10_state R51). -/
def wordFlags (w : Word) : BitVec 4 := packFlags (w.getLsbD 31) (w == 0) false false

end Sys2Proof.Machine
end

