-- ==== Sys2Proof/Machine/Operands.lean ====
section
/-! DEFINITION. Operands: effective addresses, reading, writing, checks, and the shapes of instructions built from
them (spec/30_encoding.md R129 to R152). -/

namespace Sys2Proof.Machine

/-! ## Types in force (30_encoding R143) -/

/-- The type in force at an operand, given the one before it. -/
def typeAt (cur : OType) (o : Operand) : OType := o.ty.getD cur

/-! ## Addresses -/

/-- The pointer read of a deferred mode (30_encoding R137). -/
def readPointer (a : Word) (s : State) : Run (Word × State) := loadAs .addressFetch .word .externalMemory a s

/-- The effective address of a memory mode, and the state after its pointer read, if any (30_encoding R132 to R137, R140,
R141, R149). The other modes have none: InvalidDescriptor (R145). -/
def effectiveAddress (m : Mode) (s : State) : Run (Word × State) :=
  match m with
  | .deferred r => .ok (reg s r, s)
  | .fpOffset n => .ok (s.regs.fp + n.zeroExtend 32, s)
  | .apOffset n => .ok (s.regs.ap + n.zeroExtend 32, s)
  | .displacement d r => .ok (reg s r + signedDatum d, s)
  | .displacementDeferred d r => readPointer (reg s r + signedDatum d) s
  | .absolute a => .ok (a, s)
  | .absoluteDeferred a => readPointer a s
  | .literal _ | .negLiteral _ | .immediate _ | .register _ => .error (.invalidDescriptor, s)

/-- A resolved destination: a register, or an address. -/
inductive Place where
  | register (r : Reg)
  | memory (a : Word)
  deriving DecidableEq, Repr

/-- Resolve a destination; its pointer, if any, is read once (30_encoding R137, R148). -/
def resolve (m : Mode) (s : State) : Run (Place × State) :=
  match m with
  | .register r => .ok (.register r, s)
  | m => do
    let (a, s) ← effectiveAddress m s
    .ok (.memory a, s)

/-! ## Reading and writing -/

/-- A value read with a type: extended, with its integer value (30_encoding R147). -/
def valueOf (t : OType) (raw : Word) : Value := { bits := extend t raw, int := intOf t (extend t raw) }

/-- A register read with a type: its low bits, extended (30_encoding R147, 20_memory R77), but of %psw all 32, whatever the
type (10_state R32, R147's sentence on %psw; log 41). -/
def registerValue (t : OType) (r : Reg) (s : State) : Value :=
  if r = .psw then { bits := readPsw s, int := intOf t (readPsw s) } else valueOf t (reg s r)

/-- A constant whose integer value is its signed value. -/
def literalValue (w : Word) : Value := { bits := w, int := w.toInt }

/-- Read a datum of a type from memory as an operand. -/
def readMemory (t : OType) (a : Word) (s : State) : Run (Value × State) := do
  let (raw, s) ← loadAs .operandFetch (typeSize t) .externalMemory a s
  .ok (valueOf t raw, s)

/-- Read a source operand of a type (30_encoding R129, R130, R139, R147). -/
def readSource (t : OType) (m : Mode) (s : State) : Run (Value × State) :=
  match m with
  | .literal v => .ok (literalValue (v.zeroExtend 32), s)
  | .negLiteral v => .ok (literalValue (((15 : BitVec 4) ++ v).signExtend 32), s)
  | .immediate d =>
    let w := if isSigned t then signedDatum d else unsignedDatum d
    .ok ({ bits := w, int := intOf t w }, s)
  | .register r => .ok (registerValue t r s, s)
  | m => do
    let (a, s) ← effectiveAddress m s
    readMemory t a s

/-- Read a destination that is also a source, at its resolved place (30_encoding R148). -/
def readPlace (t : OType) (p : Place) (s : State) : Run (Value × State) :=
  match p with
  | .register r => .ok (registerValue t r s, s)
  | .memory a => readMemory t a s

/-- Write a destination: all 32 bits of a register, the low bits of its size in memory (30_encoding R148). -/
def writePlace (t : OType) (p : Place) (v : Word) (s : State) : Run State :=
  match p with
  | .register r => .ok (writeOperandReg r v s)
  | .memory a => storeAs .write (typeSize t) .externalMemory a v s

/-! ## Checks (30_encoding R152) -/

/-- The modes and types of the operands, left to right: InvalidDescriptor (30_encoding R145, R146, R150). -/
def checkOperands (os : List (Role × Operand)) (s : State) : Run Unit :=
  if os.all fun p => p.1.accepts p.2 then .ok () else .error (.invalidDescriptor, s)

/-- A privileged register as destination outside kernel level (10_state R26). -/
def checkPrivilege (dst : Mode) (s : State) : Run Unit :=
  match dst with
  | .register r => if isPrivileged r && !isKernel s then .error (.privilegedRegister, s) else .ok ()
  | _ => .ok ()

/-- An operand that reads %psw (10_state R32). -/
def readsPsw (o : Operand) : Bool := o.mode == .register .psw

/-- The place is %psw: its write sets the flags (10_state R32). -/
def isPsw (p : Place) : Bool := p == .register .psw

/-! ## How an instruction with a destination ends (30_encoding R152 steps 5 to 8) -/

/-- The flags of a result: not touched when a source is %psw or the destination is (10_state R32). -/
def applyFlags (keep : Bool) (f : BitVec 4) (s : State) : State := if keep then s else setFlags f s

/-- The result overflows and may trap: the instruction sets V (30_encoding R152 step 8, D17, 10_state R44), which it does not
where a source is %psw (10_state R32). Where the destination is %psw the test is whether the result fits (41_arithmetic
R244), also where a source is %psw as well. -/
def overflowTrap (p : Place) (pswSource : Bool) (r : Result) : Bool := r.overflow && (isPsw p || !pswSource)

/-- Flags, write, program counter, traps. An instruction that writes %psw and overflows is judged by the OE of before its
write: a new OE takes effect for the next instruction (10_state R49; log 40). Where %psw is a source and the destination the
flags are bits 21 to 18 of the value written: of the two sentences of R32 the one on the destination wins (DESIGN CHOICE, log
44). -/
def finish (t : OType) (p : Place) (pswSource : Bool) (len : Nat) (r : Result) (s : State) : Run State :=
  if r.zeroDivide then .error (.integerZeroDivide, s)
  else do
    let trap := overflowTrap p pswSource r && pswOe s.regs.psw
    let s ← writePlace t p r.value (applyFlags (pswSource || isPsw p) r.flags s)
    .ok (complete trap (advance len s))

/-- The end of an instruction that only sets flags. -/
def finishFlags (pswSource : Bool) (len : Nat) (f : BitVec 4) (s : State) : State :=
  complete false (advance len (applyFlags pswSource f s))

/-! ## Shapes -/

/-- OP src,dst where dst is only written (40_data_transfer R202). -/
def moveShape (cur : OType) (src dst : Operand) (f : OType → Value → Result) (s : State) : Outcome :=
  conclude do
    checkOperands [(.src, src), (.dst, dst)] s
    checkPrivilege dst.mode s
    let ts := typeAt cur src
    let td := typeAt ts dst
    let (v, s) ← readSource ts src.mode s
    let (p, s) ← resolve dst.mode s
    finish td p (readsPsw src) (1 + src.length + dst.length) (f td v) s

/-- OP src,dst where dst is read, then written (41_arithmetic R248, 42_logical R300). -/
def twoAddress (cur : OType) (src dst : Operand) (f : OType → Value → Value → Result) (s : State) : Outcome :=
  conclude do
    checkOperands [(.src, src), (.dst, dst)] s
    checkPrivilege dst.mode s
    let ts := typeAt cur src
    let td := typeAt ts dst
    let (v, s) ← readSource ts src.mode s
    let (p, s) ← resolve dst.mode s
    let (d, s) ← readPlace td p s
    finish td p (readsPsw src) (1 + src.length + dst.length) (f td d v) s

/-- OP src1,src2,dst; the operation receives its destination's type, src2 and src1 (41_arithmetic R248,
42_logical R300), and before them src2's type. -/
def threeAddress (cur : OType) (src1 src2 dst : Operand) (f : OType → OType → Value → Value → Result) (s : State) :
    Outcome :=
  conclude do
    checkOperands [(.src, src1), (.src, src2), (.dst, dst)] s
    checkPrivilege dst.mode s
    let t1 := typeAt cur src1
    let t2 := typeAt t1 src2
    let td := typeAt t2 dst
    let (a, s) ← readSource t1 src1.mode s
    let (b, s) ← readSource t2 src2.mode s
    let (p, s) ← resolve dst.mode s
    finish td p (readsPsw src1 || readsPsw src2) (1 + src1.length + src2.length + dst.length) (f t2 td b a) s

/-- OP dst where dst is read, then written (41_arithmetic R262). -/
def readModify (cur : OType) (dst : Operand) (f : OType → Value → Result) (s : State) : Outcome :=
  conclude do
    checkOperands [(.dst, dst)] s
    checkPrivilege dst.mode s
    let td := typeAt cur dst
    let (p, s) ← resolve dst.mode s
    let (d, s) ← readPlace td p s
    finish td p false (1 + dst.length) (f td d) s

/-- OP dst where dst is only written (42_logical R331). -/
def writeOnly (cur : OType) (dst : Operand) (r : Result) (s : State) : Outcome :=
  conclude do
    checkOperands [(.dst, dst)] s
    checkPrivilege dst.mode s
    let (p, s) ← resolve dst.mode s
    finish (typeAt cur dst) p false (1 + dst.length) r s

/-- OP src1,src2 that only sets flags; the rule receives src2's type (42_logical R319, R327). -/
def compareShape (cur : OType) (src1 src2 : Operand) (f : OType → Value → Value → BitVec 4) (s : State) : Outcome :=
  conclude do
    checkOperands [(.src, src1), (.src, src2)] s
    let t1 := typeAt cur src1
    let t2 := typeAt t1 src2
    let (a, s) ← readSource t1 src1.mode s
    let (b, s) ← readSource t2 src2.mode s
    .ok (finishFlags (readsPsw src1 || readsPsw src2) (1 + src1.length + src2.length) (f t2 a b) s)

/-- OP src that only sets flags (42_logical R323). -/
def testShape (cur : OType) (src : Operand) (f : Value → BitVec 4) (s : State) : Outcome :=
  conclude do
    checkOperands [(.src, src)] s
    let (v, s) ← readSource (typeAt cur src) src.mode s
    .ok (finishFlags (readsPsw src) (1 + src.length) (f v) s)

/-- EXTFx width,offset,src,dst (40_data_transfer R221, R222). -/
def extractShape (cur : OType) (width offset src dst : Operand) (s : State) : Outcome :=
  conclude do
    checkOperands [(.src, width), (.src, offset), (.src, src), (.dst, dst)] s
    checkPrivilege dst.mode s
    let t1 := typeAt cur width
    let t2 := typeAt t1 offset
    let t3 := typeAt t2 src
    let td := typeAt t3 dst
    let (w, s) ← readSource t1 width.mode s
    let (o, s) ← readSource t2 offset.mode s
    let (v, s) ← readSource t3 src.mode s
    let (p, s) ← resolve dst.mode s
    finish td p (readsPsw width || readsPsw offset || readsPsw src)
      (1 + width.length + offset.length + src.length + dst.length) (extractResult td w o v) s

/-- INSFx width,offset,src,dst (40_data_transfer R221, R225). -/
def insertShape (cur : OType) (width offset src dst : Operand) (s : State) : Outcome :=
  conclude do
    checkOperands [(.src, width), (.src, offset), (.src, src), (.dst, dst)] s
    checkPrivilege dst.mode s
    let t1 := typeAt cur width
    let t2 := typeAt t1 offset
    let t3 := typeAt t2 src
    let td := typeAt t3 dst
    let (w, s) ← readSource t1 width.mode s
    let (o, s) ← readSource t2 offset.mode s
    let (v, s) ← readSource t3 src.mode s
    let (p, s) ← resolve dst.mode s
    let (d, s) ← readPlace td p s
    finish td p (readsPsw width || readsPsw offset || readsPsw src)
      (1 + width.length + offset.length + src.length + dst.length) (insertResult td w o v d) s

end Sys2Proof.Machine
end

