-- ==== Sys2Proof/Machine/Arithmetic.lean ====
section
/-! DEFINITION. Arithmetic instructions (spec/41_arithmetic.md). -/

namespace Sys2Proof.Machine

/-- The constant operand of INCx and DECx (41_arithmetic R262). -/
def oneValue : Value := { bits := 1, int := 1 }

/-- ADDB2, add byte (41_arithmetic R250). -/
def execAddb2 (src dst : Operand) (s : State) : Outcome :=
  twoAddress .ubyte src dst addResult s

/-- ADDH2, add halfword (41_arithmetic R251). -/
def execAddh2 (src dst : Operand) (s : State) : Outcome :=
  twoAddress .shalf src dst addResult s

/-- ADDW2, add word (41_arithmetic R252). -/
def execAddw2 (src dst : Operand) (s : State) : Outcome :=
  twoAddress .sword src dst addResult s

/-- ADDB3, add byte, 3 address (41_arithmetic R253). -/
def execAddb3 (src1 src2 dst : Operand) (s : State) : Outcome :=
  threeAddress .ubyte src1 src2 dst (fun _ => addResult) s

/-- ADDH3, add halfword, 3 address (41_arithmetic R254). -/
def execAddh3 (src1 src2 dst : Operand) (s : State) : Outcome :=
  threeAddress .shalf src1 src2 dst (fun _ => addResult) s

/-- ADDW3, add word, 3 address (41_arithmetic R255). -/
def execAddw3 (src1 src2 dst : Operand) (s : State) : Outcome :=
  threeAddress .sword src1 src2 dst (fun _ => addResult) s

/-- SUBB2, subtract byte (41_arithmetic R256). -/
def execSubb2 (src dst : Operand) (s : State) : Outcome :=
  twoAddress .ubyte src dst subResult s

/-- SUBH2, subtract halfword (41_arithmetic R257). -/
def execSubh2 (src dst : Operand) (s : State) : Outcome :=
  twoAddress .shalf src dst subResult s

/-- SUBW2, subtract word (41_arithmetic R258). -/
def execSubw2 (src dst : Operand) (s : State) : Outcome :=
  twoAddress .sword src dst subResult s

/-- SUBB3, subtract byte, 3 address (41_arithmetic R259). -/
def execSubb3 (src1 src2 dst : Operand) (s : State) : Outcome :=
  threeAddress .ubyte src1 src2 dst (fun _ => subResult) s

/-- SUBH3, subtract halfword, 3 address (41_arithmetic R260). -/
def execSubh3 (src1 src2 dst : Operand) (s : State) : Outcome :=
  threeAddress .shalf src1 src2 dst (fun _ => subResult) s

/-- SUBW3, subtract word, 3 address (41_arithmetic R261). -/
def execSubw3 (src1 src2 dst : Operand) (s : State) : Outcome :=
  threeAddress .sword src1 src2 dst (fun _ => subResult) s

/-- INCB, increment byte (41_arithmetic R262). -/
def execIncb (dst : Operand) (s : State) : Outcome :=
  readModify .ubyte dst (fun t d => addResult t d oneValue) s

/-- INCH, increment halfword (41_arithmetic R263). -/
def execInch (dst : Operand) (s : State) : Outcome :=
  readModify .shalf dst (fun t d => addResult t d oneValue) s

/-- INCW, increment word (41_arithmetic R264). -/
def execIncw (dst : Operand) (s : State) : Outcome :=
  readModify .sword dst (fun t d => addResult t d oneValue) s

/-- DECB, decrement byte (41_arithmetic R265). -/
def execDecb (dst : Operand) (s : State) : Outcome :=
  readModify .ubyte dst (fun t d => subResult t d oneValue) s

/-- DECH, decrement halfword (41_arithmetic R266). -/
def execDech (dst : Operand) (s : State) : Outcome :=
  readModify .shalf dst (fun t d => subResult t d oneValue) s

/-- DECW, decrement word (41_arithmetic R267). -/
def execDecw (dst : Operand) (s : State) : Outcome :=
  readModify .sword dst (fun t d => subResult t d oneValue) s

/-- MULB2, multiply byte (41_arithmetic R268). -/
def execMulb2 (src dst : Operand) (s : State) : Outcome :=
  twoAddress .ubyte src dst mulResult s

/-- MULH2, multiply halfword (41_arithmetic R269). -/
def execMulh2 (src dst : Operand) (s : State) : Outcome :=
  twoAddress .shalf src dst mulResult s

/-- MULW2, multiply word (41_arithmetic R270). -/
def execMulw2 (src dst : Operand) (s : State) : Outcome :=
  twoAddress .sword src dst mulResult s

/-- MULB3, multiply byte, 3 address (41_arithmetic R271). -/
def execMulb3 (src1 src2 dst : Operand) (s : State) : Outcome :=
  threeAddress .ubyte src1 src2 dst (fun _ => mulResult3 s.free) s

/-- MULH3, multiply halfword, 3 address (41_arithmetic R272). -/
def execMulh3 (src1 src2 dst : Operand) (s : State) : Outcome :=
  threeAddress .shalf src1 src2 dst (fun _ => mulResult3 s.free) s

/-- MULW3, multiply word, 3 address (41_arithmetic R273). -/
def execMulw3 (src1 src2 dst : Operand) (s : State) : Outcome :=
  threeAddress .sword src1 src2 dst (fun _ => mulResult3 s.free) s

/-- DIVB2, divide byte (41_arithmetic R274). -/
def execDivb2 (src dst : Operand) (s : State) : Outcome :=
  twoAddress .ubyte src dst divResult s

/-- DIVH2, divide halfword (41_arithmetic R275). -/
def execDivh2 (src dst : Operand) (s : State) : Outcome :=
  twoAddress .shalf src dst divResult s

/-- DIVW2, divide word (41_arithmetic R276). -/
def execDivw2 (src dst : Operand) (s : State) : Outcome :=
  twoAddress .sword src dst divResult s

/-- DIVB3, divide byte, 3 address (41_arithmetic R277). -/
def execDivb3 (src1 src2 dst : Operand) (s : State) : Outcome :=
  threeAddress .ubyte src1 src2 dst (fun _ => divResult3 s.free) s

/-- DIVH3, divide halfword, 3 address (41_arithmetic R278). -/
def execDivh3 (src1 src2 dst : Operand) (s : State) : Outcome :=
  threeAddress .shalf src1 src2 dst (fun _ => divResult3 s.free) s

/-- DIVW3, divide word, 3 address (41_arithmetic R279). -/
def execDivw3 (src1 src2 dst : Operand) (s : State) : Outcome :=
  threeAddress .sword src1 src2 dst (fun _ => divResult3 s.free) s

/-- MODB2, modulo byte (41_arithmetic R280). -/
def execModb2 (src dst : Operand) (s : State) : Outcome :=
  twoAddress .ubyte src dst modResult s

/-- MODH2, modulo halfword (41_arithmetic R281). -/
def execModh2 (src dst : Operand) (s : State) : Outcome :=
  twoAddress .shalf src dst modResult s

/-- MODW2, modulo word (41_arithmetic R282). -/
def execModw2 (src dst : Operand) (s : State) : Outcome :=
  twoAddress .sword src dst modResult s

/-- MODB3, modulo byte, 3 address (41_arithmetic R283). -/
def execModb3 (src1 src2 dst : Operand) (s : State) : Outcome :=
  threeAddress .ubyte src1 src2 dst (fun _ => modResult3 s.free) s

/-- MODH3, modulo halfword, 3 address (41_arithmetic R284). -/
def execModh3 (src1 src2 dst : Operand) (s : State) : Outcome :=
  threeAddress .shalf src1 src2 dst (fun _ => modResult3 s.free) s

/-- MODW3, modulo word, 3 address (41_arithmetic R285). -/
def execModw3 (src1 src2 dst : Operand) (s : State) : Outcome :=
  threeAddress .sword src1 src2 dst (fun _ => modResult3 s.free) s

/-- ALSW3, arithmetic left shift word (41_arithmetic R286). -/
def execAlsw3 (count src dst : Operand) (s : State) : Outcome :=
  threeAddress .sword count src dst (fun _ => leftShiftResult) s

/-- ARSB3, arithmetic right shift byte (41_arithmetic R287). -/
def execArsb3 (count src dst : Operand) (s : State) : Outcome :=
  threeAddress .ubyte count src dst arithmeticShiftResult s

/-- ARSH3, arithmetic right shift halfword (41_arithmetic R288). -/
def execArsh3 (count src dst : Operand) (s : State) : Outcome :=
  threeAddress .shalf count src dst arithmeticShiftResult s

/-- ARSW3, arithmetic right shift word (41_arithmetic R289). -/
def execArsw3 (count src dst : Operand) (s : State) : Outcome :=
  threeAddress .sword count src dst arithmeticShiftResult s

end Sys2Proof.Machine
end

