-- ==== Sys2Proof/Machine/Coprocessor.lean ====
section
/-! DEFINITION. Coprocessor instructions (spec/44_coprocessor.md). -/

namespace Sys2Proof.Machine

/-- The broadcast: the coprocessor sees the command word, or no one answers (44_coprocessor R431). -/
def broadcast (word : Word) (s : State) : Run State := do
  let s ← busTurn s
  if s.inputs.cop.ack then .ok { s with copBus := .broadcast word :: s.copBus } else .error (.externalMemory, s)

/-- Operand fetches: n words from ea up; the coprocessor latches each (44_coprocessor R432). How it is told to abandon the
operation after a memory exception is not in the manual: it is told nothing here, copBus ends with the last word it latched
(DESIGN CHOICE, log 10). -/
def copFetch (n : Nat) (ea : Word) (s : State) : Run State :=
  match n with
  | 0 => .ok s
  | n + 1 => do
    let (w, s) ← loadAs .copFetch .word .externalMemory ea s
    copFetch n (ea + 4) { s with copBus := .operand w :: s.copBus }

/-- Data writes: the words the coprocessor drives, from ea up (44_coprocessor R435). -/
def copWrite (ea : Word) (ws : List Word) (s : State) : Run State :=
  match ws with
  | [] => .ok s
  | w :: rest => do
    let s ← storeAs .copWrite .word .externalMemory ea w s
    copWrite (ea + 4) rest s

/-- The status fetch: bits 21 to 18 of the word become N, Z, V, C (44_coprocessor R434). -/
def copStatus (s : State) : Run State := do
  let s ← busTurn s
  if s.inputs.cop.statusFault then .error (.externalMemory, s) else .ok (setFlags (pswFlags s.inputs.cop.status) s)

/-- After the broadcast and the fetches: wait for done, then status fetch and data writes (44_coprocessor R433 to
R435). Waiting changes nothing; the next step looks again. -/
def copFinish (ea : Word) (words len : Nat) (s : State) : Run State :=
  if s.inputs.cop.done then do
    let s ← copStatus s
    let s ← copWrite ea ([s.inputs.cop.d0, s.inputs.cop.d1, s.inputs.cop.d2].take words) s
    .ok (complete false (advance len { s with phase := .running }))
  else .ok { s with phase := .coprocessor ea words len }

/-- SPOP: no operand (44_coprocessor R437). -/
def copPlain (word : Word) (s : State) : Outcome :=
  conclude do
    let s ← broadcast word s
    copFinish 0 0 5 s

/-- A form with a source of n words (44_coprocessor R438). -/
def copRead (n : Nat) (word : Word) (src : Operand) (s : State) : Outcome :=
  conclude do
    checkOperands [(.addrPlain, src)] s
    let (ea, s) ← effectiveAddress src.mode s
    let s ← broadcast word s
    let s ← copFetch n ea s
    copFinish 0 0 (5 + src.length) s

/-- A form with a destination of n words (44_coprocessor R444). -/
def copStore (n : Nat) (word : Word) (dst : Operand) (s : State) : Outcome :=
  conclude do
    checkOperands [(.addrPlain, dst)] s
    let (ea, s) ← effectiveAddress dst.mode s
    let s ← broadcast word s
    copFinish ea n (5 + dst.length) s

/-- A form with a source and a destination of n words (44_coprocessor R441). -/
def copBoth (n : Nat) (word : Word) (src dst : Operand) (s : State) : Outcome :=
  conclude do
    checkOperands [(.addrPlain, src), (.addrPlain, dst)] s
    let (eas, s) ← effectiveAddress src.mode s
    let (ead, s) ← effectiveAddress dst.mode s
    let s ← broadcast word s
    let s ← copFetch n eas s
    copFinish ead n (5 + src.length + dst.length) s

/-- SPOP, coprocessor operation (44_coprocessor R437). -/
def execSpop (word : Word) (s : State) : Outcome :=
  copPlain word s

/-- SPOPRS, coprocessor operation read single (44_coprocessor R438). -/
def execSpoprs (word : Word) (src : Operand) (s : State) : Outcome :=
  copRead 1 word src s

/-- SPOPRD, coprocessor operation read double (44_coprocessor R439). -/
def execSpoprd (word : Word) (src : Operand) (s : State) : Outcome :=
  copRead 2 word src s

/-- SPOPRT, coprocessor operation read triple (44_coprocessor R440). -/
def execSpoprt (word : Word) (src : Operand) (s : State) : Outcome :=
  copRead 3 word src s

/-- SPOPS2, coprocessor operation single, 2-address (44_coprocessor R441). -/
def execSpops2 (word : Word) (src dst : Operand) (s : State) : Outcome :=
  copBoth 1 word src dst s

/-- SPOPD2, coprocessor operation double, 2-address (44_coprocessor R442). -/
def execSpopd2 (word : Word) (src dst : Operand) (s : State) : Outcome :=
  copBoth 2 word src dst s

/-- SPOPT2, coprocessor operation triple, 2-address (44_coprocessor R443). -/
def execSpopt2 (word : Word) (src dst : Operand) (s : State) : Outcome :=
  copBoth 3 word src dst s

/-- SPOPWS, coprocessor operation write single (44_coprocessor R444). -/
def execSpopws (word : Word) (dst : Operand) (s : State) : Outcome :=
  copStore 1 word dst s

/-- SPOPWD, coprocessor operation write double (44_coprocessor R445). -/
def execSpopwd (word : Word) (dst : Operand) (s : State) : Outcome :=
  copStore 2 word dst s

/-- SPOPWT, coprocessor operation write triple (44_coprocessor R446). -/
def execSpopwt (word : Word) (dst : Operand) (s : State) : Outcome :=
  copStore 3 word dst s

end Sys2Proof.Machine
end

