-- ==== Sys2Proof/Machine/DataTransfer.lean ====
section
/-! DEFINITION. Data transfer instructions (spec/40_data_transfer.md). -/

namespace Sys2Proof.Machine

/-! ## Swap interlocked, block move and strings: shared operations -/

/-- SWAPxI: read and write of one interlocked operation at one address, exchanged with r0; the flags describe the value
read (40_data_transfer R214). No other bus master has a turn between the two (20_memory R100). A fault on the write leaves
memory and r0, with the flags set. -/
def swapShape (t : OType) (dst : Operand) (s : State) : Outcome :=
  conclude do
    checkOperands [(.addrPlain, dst)] s
    let (ea, s) ← effectiveAddress dst.mode s
    let (raw, s) ← loadAs .interlocked (typeSize t) .externalMemory ea s
    let v := extend t raw
    let s := setFlags (packFlags (msbOf t v) (isZero t v) false false) s
    let s ← put .interlocked (typeSize t) .externalMemory ea s.regs.r0 s
    .ok (complete false (advance (1 + dst.length) (setReg .r0 v s)))

/-- The end of an iterating instruction: two bytes long, with the trace test made once (40_data_transfer R217). -/
def finishIterating (s : State) : State := complete false (advance 2 { s with phase := .running })

/-- One byte of STRCPY's loop (40_data_transfer R219). -/
def copyByte (s : State) : Run State := do
  let (b, s) ← loadAs .operandFetch .byte .externalMemory s.regs.r0 s
  let s ← storeAs .write .byte .externalMemory s.regs.r1 b s
  if b = 0 then .ok (finishIterating s)
  else .ok { setReg .r1 (s.regs.r1 + 1) (setReg .r0 (s.regs.r0 + 1) s) with phase := .iterating .strcpy }

/-- One byte of STREND's loop (40_data_transfer R220). -/
def scanByte (s : State) : Run State := do
  let (b, s) ← loadAs .operandFetch .byte .externalMemory s.regs.r0 s
  if b = 0 then .ok (finishIterating s)
  else .ok { setReg .r0 (s.regs.r0 + 1) s with phase := .iterating .strend }

/-- One word of MOVBLW's loop (40_data_transfer R218). -/
def moveWord (s : State) : Run State :=
  if s.regs.r2 = 0 then .ok (finishIterating s)
  else do
    let s ← copyWord .externalMemory s
    .ok { s with phase := .iterating .movblw }

/-- One iteration; between two of them an interrupt may be accepted (40_data_transfer R217, 60_exceptions R535). -/
def iterate (k : Iteration) (s : State) : Run State :=
  match k with
  | .movblw => moveWord s
  | .strcpy => copyByte s
  | .strend => scanByte s

/-! ## The instructions -/

/-- MOVB, move byte (40_data_transfer R202). -/
def execMovb (src dst : Operand) (s : State) : Outcome :=
  moveShape .ubyte src dst moveResult s

/-- MOVH, move halfword (40_data_transfer R203). -/
def execMovh (src dst : Operand) (s : State) : Outcome :=
  moveShape .shalf src dst moveResult s

/-- MOVW, move word (40_data_transfer R204). -/
def execMovw (src dst : Operand) (s : State) : Outcome :=
  moveShape .sword src dst moveResult s

/-- MCOMB, move complemented byte (40_data_transfer R207). -/
def execMcomb (src dst : Operand) (s : State) : Outcome :=
  moveShape .ubyte src dst complementResult s

/-- MCOMH, move complemented halfword (40_data_transfer R208). -/
def execMcomh (src dst : Operand) (s : State) : Outcome :=
  moveShape .shalf src dst complementResult s

/-- MCOMW, move complemented word (40_data_transfer R209). -/
def execMcomw (src dst : Operand) (s : State) : Outcome :=
  moveShape .sword src dst complementResult s

/-- MNEGB, move negated byte (40_data_transfer R210). -/
def execMnegb (src dst : Operand) (s : State) : Outcome :=
  moveShape .ubyte src dst negResult s

/-- MNEGH, move negated halfword (40_data_transfer R211). -/
def execMnegh (src dst : Operand) (s : State) : Outcome :=
  moveShape .shalf src dst negResult s

/-- MNEGW, move negated word (40_data_transfer R212). -/
def execMnegw (src dst : Operand) (s : State) : Outcome :=
  moveShape .sword src dst negResult s

/-- MOVAW, move address: the operand itself is not read (40_data_transfer R206). -/
def execMovaw (src dst : Operand) (s : State) : Outcome :=
  conclude do
    checkOperands [(.addr, src), (.dst, dst)] s
    checkPrivilege dst.mode s
    let td := typeAt (typeAt .sword src) dst
    let (ea, s) ← effectiveAddress src.mode s
    let (p, s) ← resolve dst.mode s
    finish td p false (1 + src.length + dst.length) (caseOne td ea) s

/-- MVERNO, move processor version number (log 27) (40_data_transfer R213). -/
def execMverno (s : State) : Outcome :=
  .next (complete false (advance 2 (setReg .r0 (Config.versionNumber.signExtend 32) s)))

/-- SWAPBI, swap byte interlocked (40_data_transfer R214). -/
def execSwapbi (dst : Operand) (s : State) : Outcome :=
  swapShape .ubyte dst s

/-- SWAPHI, swap halfword interlocked (40_data_transfer R215). -/
def execSwaphi (dst : Operand) (s : State) : Outcome :=
  swapShape .shalf dst s

/-- SWAPWI, swap word interlocked (40_data_transfer R216). -/
def execSwapwi (dst : Operand) (s : State) : Outcome :=
  swapShape .sword dst s

/-- MOVBLW, move block of words: one iteration, or the end (40_data_transfer R218). -/
def execMovblw (s : State) : Outcome :=
  conclude (iterate .movblw s)

/-- STRCPY, string copy: one iteration, or the end (40_data_transfer R219). -/
def execStrcpy (s : State) : Outcome :=
  conclude (iterate .strcpy s)

/-- STREND, string end: one iteration, or the end (40_data_transfer R220). -/
def execStrend (s : State) : Outcome :=
  conclude (iterate .strend s)

/-- EXTFB, extract field from byte (40_data_transfer R222). -/
def execExtfb (width offset src dst : Operand) (s : State) : Outcome :=
  extractShape .ubyte width offset src dst s

/-- EXTFH, extract field from halfword (40_data_transfer R223). -/
def execExtfh (width offset src dst : Operand) (s : State) : Outcome :=
  extractShape .shalf width offset src dst s

/-- EXTFW, extract field from word (40_data_transfer R224). -/
def execExtfw (width offset src dst : Operand) (s : State) : Outcome :=
  extractShape .sword width offset src dst s

/-- INSFB, insert field from byte (40_data_transfer R225). -/
def execInsfb (width offset src dst : Operand) (s : State) : Outcome :=
  insertShape .ubyte width offset src dst s

/-- INSFH, insert field from halfword (40_data_transfer R226). -/
def execInsfh (width offset src dst : Operand) (s : State) : Outcome :=
  insertShape .shalf width offset src dst s

/-- INSFW, insert field from word (40_data_transfer R227). -/
def execInsfw (width offset src dst : Operand) (s : State) : Outcome :=
  insertShape .sword width offset src dst s

end Sys2Proof.Machine
end

