-- ==== Sys2Proof/Machine/Logical.lean ====
section
/-! DEFINITION. Logical, compare, test, shift and rotate instructions (spec/42_logical.md). -/

namespace Sys2Proof.Machine

/-- What CLRx stores and the flags it sets (42_logical R331). -/
def clearResult : Result := { value := 0, flags := packFlags false true false false }

/-- ANDB2, AND byte (42_logical R301). -/
def execAndb2 (src dst : Operand) (s : State) : Outcome :=
  twoAddress .ubyte src dst andResult s

/-- ANDH2, AND halfword (42_logical R302). -/
def execAndh2 (src dst : Operand) (s : State) : Outcome :=
  twoAddress .shalf src dst andResult s

/-- ANDW2, AND word (42_logical R303). -/
def execAndw2 (src dst : Operand) (s : State) : Outcome :=
  twoAddress .sword src dst andResult s

/-- ANDB3, AND byte, 3 address (42_logical R304). -/
def execAndb3 (src1 src2 dst : Operand) (s : State) : Outcome :=
  threeAddress .ubyte src1 src2 dst (fun _ => andResult) s

/-- ANDH3, AND halfword, 3 address (42_logical R305). -/
def execAndh3 (src1 src2 dst : Operand) (s : State) : Outcome :=
  threeAddress .shalf src1 src2 dst (fun _ => andResult) s

/-- ANDW3, AND word, 3 address (42_logical R306). -/
def execAndw3 (src1 src2 dst : Operand) (s : State) : Outcome :=
  threeAddress .sword src1 src2 dst (fun _ => andResult) s

/-- ORB2, OR byte (42_logical R307). -/
def execOrb2 (src dst : Operand) (s : State) : Outcome :=
  twoAddress .ubyte src dst orResult s

/-- ORH2, OR halfword (42_logical R308). -/
def execOrh2 (src dst : Operand) (s : State) : Outcome :=
  twoAddress .shalf src dst orResult s

/-- ORW2, OR word (42_logical R309). -/
def execOrw2 (src dst : Operand) (s : State) : Outcome :=
  twoAddress .sword src dst orResult s

/-- ORB3, OR byte, 3 address (42_logical R310). -/
def execOrb3 (src1 src2 dst : Operand) (s : State) : Outcome :=
  threeAddress .ubyte src1 src2 dst (fun _ => orResult) s

/-- ORH3, OR halfword, 3 address (42_logical R311). -/
def execOrh3 (src1 src2 dst : Operand) (s : State) : Outcome :=
  threeAddress .shalf src1 src2 dst (fun _ => orResult) s

/-- ORW3, OR word, 3 address (42_logical R312). -/
def execOrw3 (src1 src2 dst : Operand) (s : State) : Outcome :=
  threeAddress .sword src1 src2 dst (fun _ => orResult) s

/-- XORB2, exclusive OR byte (42_logical R313). -/
def execXorb2 (src dst : Operand) (s : State) : Outcome :=
  twoAddress .ubyte src dst xorResult s

/-- XORH2, exclusive OR halfword (42_logical R314). -/
def execXorh2 (src dst : Operand) (s : State) : Outcome :=
  twoAddress .shalf src dst xorResult s

/-- XORW2, exclusive OR word (42_logical R315). -/
def execXorw2 (src dst : Operand) (s : State) : Outcome :=
  twoAddress .sword src dst xorResult s

/-- XORB3, exclusive OR byte, 3 address (42_logical R316). -/
def execXorb3 (src1 src2 dst : Operand) (s : State) : Outcome :=
  threeAddress .ubyte src1 src2 dst (fun _ => xorResult) s

/-- XORH3, exclusive OR halfword, 3 address (42_logical R317). -/
def execXorh3 (src1 src2 dst : Operand) (s : State) : Outcome :=
  threeAddress .shalf src1 src2 dst (fun _ => xorResult) s

/-- XORW3, exclusive OR word, 3 address (42_logical R318). -/
def execXorw3 (src1 src2 dst : Operand) (s : State) : Outcome :=
  threeAddress .sword src1 src2 dst (fun _ => xorResult) s

/-- CMPB, compare byte (42_logical R320). -/
def execCmpb (src1 src2 : Operand) (s : State) : Outcome :=
  compareShape .ubyte src1 src2 (fun _ => compareFlags) s

/-- CMPH, compare halfword (42_logical R321). -/
def execCmph (src1 src2 : Operand) (s : State) : Outcome :=
  compareShape .shalf src1 src2 (fun _ => compareFlags) s

/-- CMPW, compare word (42_logical R322). -/
def execCmpw (src1 src2 : Operand) (s : State) : Outcome :=
  compareShape .sword src1 src2 (fun _ => compareFlags) s

/-- TSTB, test byte (42_logical R324). -/
def execTstb (src : Operand) (s : State) : Outcome :=
  testShape .ubyte src testFlags s

/-- TSTH, test halfword (42_logical R325). -/
def execTsth (src : Operand) (s : State) : Outcome :=
  testShape .shalf src testFlags s

/-- TSTW, test word (42_logical R326). -/
def execTstw (src : Operand) (s : State) : Outcome :=
  testShape .sword src testFlags s

/-- BITB, bit test byte (42_logical R328). -/
def execBitb (src1 src2 : Operand) (s : State) : Outcome :=
  compareShape .ubyte src1 src2 bitFlags s

/-- BITH, bit test halfword (42_logical R329). -/
def execBith (src1 src2 : Operand) (s : State) : Outcome :=
  compareShape .shalf src1 src2 bitFlags s

/-- BITW, bit test word (42_logical R330). -/
def execBitw (src1 src2 : Operand) (s : State) : Outcome :=
  compareShape .sword src1 src2 bitFlags s

/-- CLRB, clear byte (42_logical R332). -/
def execClrb (dst : Operand) (s : State) : Outcome :=
  writeOnly .ubyte dst clearResult s

/-- CLRH, clear halfword (42_logical R333). -/
def execClrh (dst : Operand) (s : State) : Outcome :=
  writeOnly .shalf dst clearResult s

/-- CLRW, clear word (42_logical R334). -/
def execClrw (dst : Operand) (s : State) : Outcome :=
  writeOnly .sword dst clearResult s

/-- LLSB3, logical left shift byte (42_logical R336). -/
def execLlsb3 (count src dst : Operand) (s : State) : Outcome :=
  threeAddress .ubyte count src dst (fun _ => leftShiftResult) s

/-- LLSH3, logical left shift halfword (42_logical R337). -/
def execLlsh3 (count src dst : Operand) (s : State) : Outcome :=
  threeAddress .shalf count src dst (fun _ => leftShiftResult) s

/-- LLSW3, logical left shift word (42_logical R338). -/
def execLlsw3 (count src dst : Operand) (s : State) : Outcome :=
  threeAddress .sword count src dst (fun _ => leftShiftResult) s

/-- LRSW3, logical right shift word (42_logical R339). -/
def execLrsw3 (count src dst : Operand) (s : State) : Outcome :=
  threeAddress .sword count src dst (fun _ => rightShiftResult) s

/-- ROTW, rotate word (42_logical R340). -/
def execRotw (count src dst : Operand) (s : State) : Outcome :=
  threeAddress .sword count src dst (fun _ => rotateResult) s

end Sys2Proof.Machine
end

