-- ==== Sys2Proof/Machine/OperatingSystem.lean ====
section
/-! DEFINITION. Operating system instructions (spec/46_operating_system.md). -/

namespace Sys2Proof.Machine

/-- The check of a privileged opcode (46_operating_system R470). -/
def requireKernel (s : State) : Run Unit := if isKernel s then .ok () else .error (.privilegedOpcode, s)

/-- The word a MOVTRW access returns: the physical address where the MMU translates, else the word in memory
(46_operating_system R488). -/
def translatedWord (ea : Word) (s : State) : Run (Word × State) := do
  let s ← dataTurn .word ea s
  match readReach s .moveTranslated .word ea with
  | some (.memory p) => .ok (if translating s then p else readData s.mem .word p, s)
  | some (.device w) => .ok (w, s)
  | none => .error (.externalMemory, s)

/-- The PSW RETG installs from the saved word (46_operating_system R474). -/
def returnImage (saved old : Word) : Word :=
  withCodes 7 false 3 (withR (pswR old) (merge maskCache old (withIpl (pswIpl old) saved)))

/-- The value INTACK puts in r0 (46_operating_system R487; log 23), by NMINT and AVEC as they are before the environment's turn
(DESIGN CHOICE, log 45). -/
def intackValue (s : State) : Run (Word × State) :=
  if s.inputs.nmint then do
    let s ← busTurn s
    .ok (0, s)
  else if s.inputs.avec then do
    let s ← busTurn s
    .ok (Config.intackAutoVector s.free, s)
  else do
    let (id, s) ← acknowledge .externalMemory s
    .ok (id <<< 2, s)

/-- Change the virtual mode and jump to r0 (46_operating_system R484, R485). -/
def switchVirtual (on : Bool) (s : State) : Run State := do
  requireKernel s
  .ok (complete false (jump s.regs.r0 (flushCache { s with virtualMode := on })))

/-- MOVTRW, move translated word (46_operating_system R488). -/
def execMovtrw (src dst : Operand) (s : State) : Outcome :=
  conclude do
    checkOperands [(.addr, src), (.dst, dst)] s
    checkPrivilege dst.mode s
    let td := typeAt (typeAt .sword src) dst
    let (ea, s) ← effectiveAddress src.mode s
    let (w, s) ← translatedWord ea s
    let (p, s) ← resolve dst.mode s
    finish td p false (1 + src.length + dst.length) { value := w, flags := wordFlags w } s

/-- GATE, system call (46_operating_system R472). -/
def execGate (s : State) : Outcome :=
  conclude do
    let s ← checkBounds s
    let s ← pushContext (s.regs.pc + 2) (withCodes 1 false 2) s
    let s ← gateMechanism (s.regs.r0 &&& 0x7C) (s.regs.r1 &&& 0x7FF8) .gateVector s
    .ok (complete false (jumped s))

/-- RETG, return from gate (46_operating_system R474). -/
def execRetg (s : State) : Outcome :=
  conclude do
    let (saved, s) ← load .stackFault (s.regs.sp - 4) s
    let (pc, s) ← load .stackFault (s.regs.sp - 8) s
    if (pswCm saved).ult (currentLevel s) then .error (.illegalLevelChange, s)
    else .ok (complete false (jump pc (setReg .sp (s.regs.sp - 8) (setPsw (returnImage saved s.regs.psw) s))))

/-- CALLPS, call process (46_operating_system R479). -/
def execCallps (s : State) : Outcome :=
  conclude do
    requireKernel s
    let tempa := s.regs.r0
    let s ← pushPcbp (forceKernel true s)
    let s := setCodes 0 false 1 (setReg .pc (s.regs.pc + 2) s)
    let s ← xswitchOne tempa .oldPcb s
    let s ← xswitchTwo tempa .newPcb s
    xswitchThree .callps (setCodes 7 false 3 s)

/-- RETPS, return to process (46_operating_system R480). -/
def execRetps (s : State) : Outcome :=
  conclude do
    requireKernel s
    let s := forceKernel true (setReg .isp (s.regs.isp - 4) s)
    let (tempa, s) ← load .interruptStack s.regs.isp s
    let (image, s) ← load .oldPcb tempa s
    let s := setPsw (withR (pswR image) s.regs.psw) s
    let s ← xswitchTwo tempa .newPcb s
    xswitchThree .retps (setCodes 7 false 3 s)

/-- ENBVJMP, enable virtual pin and jump (46_operating_system R484). -/
def execEnbvjmp (s : State) : Outcome :=
  conclude (switchVirtual true s)

/-- DISVJMP, disable virtual pin and jump (46_operating_system R485). -/
def execDisvjmp (s : State) : Outcome :=
  conclude (switchVirtual false s)

/-- WAIT, wait for interrupt; a trap due at its end is taken instead of the wait, 60_exceptions R560 (46_operating_system R486). -/
def execWait (s : State) : Outcome :=
  conclude do
    requireKernel s
    let s := advance 1 s
    if s.pendingOverflow || traceDue s then .ok (complete false s)
    else .ok { s with phase := .waiting, traceOpen := false }

/-- INTACK, interrupt acknowledge (log 23) (46_operating_system R487). -/
def execIntack (s : State) : Outcome :=
  conclude do
    requireKernel s
    let (v, s) ← intackValue s
    .ok (complete false (advance 2 (setReg .r0 v s)))

end Sys2Proof.Machine
end

