-- ==== Sys2Proof/Machine/ProgramControl.lean ====
section
/-! DEFINITION. Program control instructions (spec/43_program_control.md). -/

namespace Sys2Proof.Machine

/-! ## Conditions (43_program_control R351) -/

/-- N. -/
def flagN (s : State) : Bool := (flags s).getLsbD 3
/-- Z. -/
def flagZ (s : State) : Bool := (flags s).getLsbD 2
/-- V. -/
def flagV (s : State) : Bool := (flags s).getLsbD 1
/-- C. -/
def flagC (s : State) : Bool := (flags s).getLsbD 0

/-- Greater than, signed. -/
def greater (s : State) : Bool := !(flagN s || flagZ s)
/-- Greater than or equal, signed. -/
def greaterEqual (s : State) : Bool := !flagN s || flagZ s
/-- Less than, signed. -/
def less (s : State) : Bool := flagN s && !flagZ s
/-- Less than or equal, signed. -/
def lessEqual (s : State) : Bool := flagN s || flagZ s
/-- Greater than, unsigned. -/
def greaterUnsigned (s : State) : Bool := !(flagC s || flagZ s)
/-- Less than or equal, unsigned. -/
def lessEqualUnsigned (s : State) : Bool := flagC s || flagZ s

/-! ## Shared operations -/

/-- A branch: to the displacement from the branch's own address, or on (43_program_control R350). -/
def branch (taken : Bool) (len : Nat) (disp : Word) (s : State) : Outcome :=
  .next (complete false (if taken then jump (s.regs.pc + disp) s else advance len s))

/-- push: SP changes only after the store (43_program_control R380). -/
def push (v : Word) (s : State) : Run State := do
  let s ← store .externalMemory s.regs.sp v s
  .ok (setReg .sp (s.regs.sp + 4) s)

/-- Push the address of the next instruction and go to a target (43_program_control R380). -/
def callTo (len : Nat) (target : Word) (s : State) : Run State := do
  let s ← push (s.regs.pc + BitVec.ofNat 32 len) s
  .ok (complete false (jump target s))

/-- A return: pop the PC if the condition holds, else go on (43_program_control R384, R385). -/
def returnIf (taken : Bool) (s : State) : Outcome :=
  conclude do
    if taken then do
      let (pc, s) ← load .externalMemory (s.regs.sp - 4) s
      .ok (complete false (jump pc (setReg .sp (s.regs.sp - 4) s)))
    else .ok (complete false (advance 1 s))

/-- The registers SAVE and RESTORE move for an operand: from it up to r8, none for an operand that is no register from
r0 to r9 (43_program_control R402). -/
def savedRegs (m : Mode) : Option (List Reg) :=
  match m with
  | .register r => if r.saveable then some (generalRegs.drop r.num.toNat) else none
  | _ => none

/-! ## Branches -/

/-- BRB at opcode 0x7B, branch, byte displacement (43_program_control R352). -/
def execBrb (disp : BitVec 8) (s : State) : Outcome :=
  branch true 2 (disp.signExtend 32) s

/-- BRH at opcode 0x7A, branch, halfword displacement (43_program_control R353). -/
def execBrh (disp : BitVec 16) (s : State) : Outcome :=
  branch true 3 (disp.signExtend 32) s

/-- BCCB at opcode 0x53, branch on carry clear, byte displacement (43_program_control R354). -/
def execBccb (disp : BitVec 8) (s : State) : Outcome :=
  branch (!flagC s) 2 (disp.signExtend 32) s

/-- BCCH at opcode 0x52, branch on carry clear, halfword displacement (43_program_control R355). -/
def execBcch (disp : BitVec 16) (s : State) : Outcome :=
  branch (!flagC s) 3 (disp.signExtend 32) s

/-- BGEUB at opcode 0x53, branch on greater than or equal (unsigned), byte displacement (43_program_control R354). -/
def execBgeub (disp : BitVec 8) (s : State) : Outcome :=
  branch (!flagC s) 2 (disp.signExtend 32) s

/-- BGEUH at opcode 0x52, branch on greater than or equal (unsigned), halfword displacement (43_program_control R355). -/
def execBgeuh (disp : BitVec 16) (s : State) : Outcome :=
  branch (!flagC s) 3 (disp.signExtend 32) s

/-- BCSB at opcode 0x5B, branch on carry set, byte displacement (43_program_control R356). -/
def execBcsb (disp : BitVec 8) (s : State) : Outcome :=
  branch (flagC s) 2 (disp.signExtend 32) s

/-- BCSH at opcode 0x5A, branch on carry set, halfword displacement (43_program_control R357). -/
def execBcsh (disp : BitVec 16) (s : State) : Outcome :=
  branch (flagC s) 3 (disp.signExtend 32) s

/-- BLUB at opcode 0x5B, branch on less than (unsigned), byte displacement (43_program_control R356). -/
def execBlub (disp : BitVec 8) (s : State) : Outcome :=
  branch (flagC s) 2 (disp.signExtend 32) s

/-- BLUH at opcode 0x5A, branch on less than (unsigned), halfword displacement (43_program_control R357). -/
def execBluh (disp : BitVec 16) (s : State) : Outcome :=
  branch (flagC s) 3 (disp.signExtend 32) s

/-- BEB at opcode 0x7F, branch on equal, byte displacement (43_program_control R358). -/
def execBeb (disp : BitVec 8) (s : State) : Outcome :=
  branch (flagZ s) 2 (disp.signExtend 32) s

/-- BEB at opcode 0x6F, branch on equal, byte displacement (43_program_control R358). -/
def execBeb6f (disp : BitVec 8) (s : State) : Outcome :=
  branch (flagZ s) 2 (disp.signExtend 32) s

/-- BEH at opcode 0x7E, branch on equal, halfword displacement (43_program_control R359). -/
def execBeh (disp : BitVec 16) (s : State) : Outcome :=
  branch (flagZ s) 3 (disp.signExtend 32) s

/-- BEH at opcode 0x6E, branch on equal, halfword displacement (43_program_control R359). -/
def execBeh6e (disp : BitVec 16) (s : State) : Outcome :=
  branch (flagZ s) 3 (disp.signExtend 32) s

/-- BGB at opcode 0x47, branch on greater than (signed), byte displacement (43_program_control R360). -/
def execBgb (disp : BitVec 8) (s : State) : Outcome :=
  branch (greater s) 2 (disp.signExtend 32) s

/-- BGH at opcode 0x46, branch on greater than (signed), halfword displacement (43_program_control R361). -/
def execBgh (disp : BitVec 16) (s : State) : Outcome :=
  branch (greater s) 3 (disp.signExtend 32) s

/-- BGEB at opcode 0x43, branch on greater than or equal (signed), byte displacement (43_program_control R362). -/
def execBgeb (disp : BitVec 8) (s : State) : Outcome :=
  branch (greaterEqual s) 2 (disp.signExtend 32) s

/-- BGEH at opcode 0x42, branch on greater than or equal (signed), halfword displacement (43_program_control R363). -/
def execBgeh (disp : BitVec 16) (s : State) : Outcome :=
  branch (greaterEqual s) 3 (disp.signExtend 32) s

/-- BGUB at opcode 0x57, branch on greater than (unsigned), byte displacement (43_program_control R364). -/
def execBgub (disp : BitVec 8) (s : State) : Outcome :=
  branch (greaterUnsigned s) 2 (disp.signExtend 32) s

/-- BGUH at opcode 0x56, branch on greater than (unsigned), halfword displacement (43_program_control R365). -/
def execBguh (disp : BitVec 16) (s : State) : Outcome :=
  branch (greaterUnsigned s) 3 (disp.signExtend 32) s

/-- BLB at opcode 0x4B, branch on less than (signed), byte displacement (43_program_control R366). -/
def execBlb (disp : BitVec 8) (s : State) : Outcome :=
  branch (less s) 2 (disp.signExtend 32) s

/-- BLH at opcode 0x4A, branch on less than (signed), halfword displacement (43_program_control R367). -/
def execBlh (disp : BitVec 16) (s : State) : Outcome :=
  branch (less s) 3 (disp.signExtend 32) s

/-- BLEB at opcode 0x4F, branch on less than or equal (signed), byte displacement (43_program_control R368). -/
def execBleb (disp : BitVec 8) (s : State) : Outcome :=
  branch (lessEqual s) 2 (disp.signExtend 32) s

/-- BLEH at opcode 0x4E, branch on less than or equal (signed), halfword displacement (43_program_control R369). -/
def execBleh (disp : BitVec 16) (s : State) : Outcome :=
  branch (lessEqual s) 3 (disp.signExtend 32) s

/-- BLEUB at opcode 0x5F, branch on less than or equal (unsigned), byte displacement (43_program_control R370). -/
def execBleub (disp : BitVec 8) (s : State) : Outcome :=
  branch (lessEqualUnsigned s) 2 (disp.signExtend 32) s

/-- BLEUH at opcode 0x5E, branch on less than or equal (unsigned), halfword displacement (43_program_control R371). -/
def execBleuh (disp : BitVec 16) (s : State) : Outcome :=
  branch (lessEqualUnsigned s) 3 (disp.signExtend 32) s

/-- BNEB at opcode 0x77, branch on not equal, byte displacement (43_program_control R372). -/
def execBneb (disp : BitVec 8) (s : State) : Outcome :=
  branch (!flagZ s) 2 (disp.signExtend 32) s

/-- BNEB at opcode 0x67, branch on not equal, byte displacement (43_program_control R372). -/
def execBneb67 (disp : BitVec 8) (s : State) : Outcome :=
  branch (!flagZ s) 2 (disp.signExtend 32) s

/-- BNEH at opcode 0x76, branch on not equal, halfword displacement (43_program_control R373). -/
def execBneh (disp : BitVec 16) (s : State) : Outcome :=
  branch (!flagZ s) 3 (disp.signExtend 32) s

/-- BNEH at opcode 0x66, branch on not equal, halfword displacement (43_program_control R373). -/
def execBneh66 (disp : BitVec 16) (s : State) : Outcome :=
  branch (!flagZ s) 3 (disp.signExtend 32) s

/-- BVCB at opcode 0x63, branch on overflow clear, byte displacement (43_program_control R374). -/
def execBvcb (disp : BitVec 8) (s : State) : Outcome :=
  branch (!flagV s) 2 (disp.signExtend 32) s

/-- BVCH at opcode 0x62, branch on overflow clear, halfword displacement (43_program_control R375). -/
def execBvch (disp : BitVec 16) (s : State) : Outcome :=
  branch (!flagV s) 3 (disp.signExtend 32) s

/-- BVSB at opcode 0x6B, branch on overflow set, byte displacement (43_program_control R376). -/
def execBvsb (disp : BitVec 8) (s : State) : Outcome :=
  branch (flagV s) 2 (disp.signExtend 32) s

/-- BVSH at opcode 0x6A, branch on overflow set, halfword displacement (43_program_control R377). -/
def execBvsh (disp : BitVec 16) (s : State) : Outcome :=
  branch (flagV s) 3 (disp.signExtend 32) s

/-! ## Jumps, subroutines and returns -/

/-- JMP, jump (43_program_control R378). -/
def execJmp (dst : Operand) (s : State) : Outcome :=
  conclude do
    checkOperands [(.addr, dst)] s
    let (ea, s) ← effectiveAddress dst.mode s
    .ok (complete false (jump ea s))

/-- BSBB, branch to subroutine, byte displacement (43_program_control R381). -/
def execBsbb (disp : BitVec 8) (s : State) : Outcome :=
  conclude (callTo 2 (s.regs.pc + disp.signExtend 32) s)

/-- BSBH, branch to subroutine, halfword displacement (43_program_control R382). -/
def execBsbh (disp : BitVec 16) (s : State) : Outcome :=
  conclude (callTo 3 (s.regs.pc + disp.signExtend 32) s)

/-- JSB, jump to subroutine (43_program_control R383). -/
def execJsb (dst : Operand) (s : State) : Outcome :=
  conclude do
    checkOperands [(.addrPlain, dst)] s
    let (ea, s) ← effectiveAddress dst.mode s
    callTo (1 + dst.length) ea s

/-- RSB, return from subroutine (43_program_control R384). -/
def execRsb (s : State) : Outcome :=
  returnIf true s

/-- RCC, return on carry clear (43_program_control R386). -/
def execRcc (s : State) : Outcome :=
  returnIf (!flagC s) s

/-- RGEQU, return on greater than or equal (unsigned) (43_program_control R386). -/
def execRgequ (s : State) : Outcome :=
  returnIf (!flagC s) s

/-- RCS, return on carry set (43_program_control R387). -/
def execRcs (s : State) : Outcome :=
  returnIf (flagC s) s

/-- RLSSU, return on less than (unsigned) (43_program_control R387). -/
def execRlssu (s : State) : Outcome :=
  returnIf (flagC s) s

/-- REQL, return on equal (43_program_control R388). -/
def execReql (s : State) : Outcome :=
  returnIf (flagZ s) s

/-- REQLU, return on equal (unsigned) (43_program_control R389). -/
def execReqlu (s : State) : Outcome :=
  returnIf (flagZ s) s

/-- RGEQ, return on greater than or equal (signed) (43_program_control R390). -/
def execRgeq (s : State) : Outcome :=
  returnIf (greaterEqual s) s

/-- RGTR, return on greater than (signed) (43_program_control R391). -/
def execRgtr (s : State) : Outcome :=
  returnIf (greater s) s

/-- RGTRU, return on greater than (unsigned) (43_program_control R392). -/
def execRgtru (s : State) : Outcome :=
  returnIf (greaterUnsigned s) s

/-- RLEQ, return on less than or equal (signed) (43_program_control R393). -/
def execRleq (s : State) : Outcome :=
  returnIf (lessEqual s) s

/-- RLEQU, return on less than or equal (unsigned) (43_program_control R394). -/
def execRlequ (s : State) : Outcome :=
  returnIf (lessEqualUnsigned s) s

/-- RLSS, return on less than (signed) (43_program_control R395). -/
def execRlss (s : State) : Outcome :=
  returnIf (less s) s

/-- RNEQ, return on not equal (43_program_control R396). -/
def execRneq (s : State) : Outcome :=
  returnIf (!flagZ s) s

/-- RNEQU, return on not equal (unsigned) (43_program_control R397). -/
def execRnequ (s : State) : Outcome :=
  returnIf (!flagZ s) s

/-- RVC, return on overflow clear (43_program_control R398). -/
def execRvc (s : State) : Outcome :=
  returnIf (!flagV s) s

/-- RVS, return on overflow set (43_program_control R399). -/
def execRvs (s : State) : Outcome :=
  returnIf (flagV s) s

/-! ## Procedures -/

/-- CALL, call procedure (43_program_control R401). -/
def execCall (src dst : Operand) (s : State) : Outcome :=
  conclude do
    checkOperands [(.addrPlain, src), (.addrPlain, dst)] s
    let (tempa, s) ← effectiveAddress src.mode s
    let (tempb, s) ← effectiveAddress dst.mode s
    let sp := s.regs.sp
    let s ← store .externalMemory (sp + 4) s.regs.ap s
    let s ← store .externalMemory sp (s.regs.pc + BitVec.ofNat 32 (1 + src.length + dst.length)) s
    .ok (complete false (jump tempb (setReg .ap tempa (setReg .sp (sp + 8) s))))

/-- RET, return from procedure (43_program_control R404). -/
def execRet (s : State) : Outcome :=
  conclude do
    let (tempb, s) ← load .externalMemory (s.regs.sp - 4) s
    let (tempc, s) ← load .externalMemory (s.regs.sp - 8) s
    .ok (complete false (jump tempc (setReg .ap tempb (setReg .sp s.regs.ap s))))

/-- SAVE, save registers (43_program_control R402). -/
def execSave (reg : Operand) (s : State) : Outcome :=
  match checkOperands [(.regList, reg)] s with
  | .error e => conclude (.error e)
  | .ok () =>
    match savedRegs reg.mode with
    | none => .fault .indeterminateSave
    | some rs => conclude do
      let temp := s.regs.sp
      let s ← storeWords .externalMemory temp (s.regs.fp :: rs.map (fun r => readReg r s.regs)) s
      .ok (complete false (advance (1 + reg.length) (setReg .fp (temp + 28) (setReg .sp (temp + 28) s))))

/-- RESTORE, restore registers (43_program_control R403). -/
def execRestore (reg : Operand) (s : State) : Outcome :=
  match checkOperands [(.regList, reg)] s with
  | .error e => conclude (.error e)
  | .ok () =>
    match savedRegs reg.mode with
    | none => .fault .indeterminateRestore
    | some rs => conclude do
      let tempa := s.regs.fp - 28
      let (tempb, s) ← load .externalMemory tempa s
      let s ← loadRegs .externalMemory (tempa + 4) rs s
      .ok (complete false (advance (1 + reg.length) (setReg .fp tempb (setReg .sp tempa s))))

end Sys2Proof.Machine
end

