-- ==== Sys2Proof/Machine/StackMisc.lean ====
section
/-! DEFINITION. Stack and miscellaneous instructions (spec/45_stack_misc.md). -/

namespace Sys2Proof.Machine

/-- PUSHW, push word (45_stack_misc R451). -/
def execPushw (src : Operand) (s : State) : Outcome :=
  conclude do
    checkOperands [(.srcPlain, src)] s
    let (v, s) ← readSource .sword src.mode s
    let s ← push v.bits (applyFlags (readsPsw src) (wordFlags v.bits) s)
    .ok (complete false (advance (1 + src.length) s))

/-- PUSHAW, push address (45_stack_misc R452). -/
def execPushaw (src : Operand) (s : State) : Outcome :=
  conclude do
    checkOperands [(.addrPlain, src)] s
    let (ea, s) ← effectiveAddress src.mode s
    let s ← push ea (setFlags (wordFlags ea) s)
    .ok (complete false (advance (1 + src.length) s))

/-- POPW, pop word; the final SP of POPW %sp is open (log 22) (45_stack_misc R453). -/
def execPopw (dst : Operand) (s : State) : Outcome :=
  conclude do
    checkOperands [(.dstPlain, dst)] s
    checkPrivilege dst.mode s
    let (p, s) ← resolve dst.mode s
    let (x, s) ← load .externalMemory (s.regs.sp - 4) s
    let sp := if p = .register .sp then Config.popStackPointer s.free else s.regs.sp - 4
    let s ← writePlace .sword p x (applyFlags (isPsw p) (wordFlags x) s)
    .ok (complete false (advance (1 + dst.length) (setReg .sp sp s)))

/-- NOP, no operation, 1 byte (45_stack_misc R455). -/
def execNop (s : State) : Outcome :=
  .next (complete false (advance 1 s))

/-- NOP2, no operation, 2 bytes (45_stack_misc R456). -/
def execNop2 (s : State) : Outcome :=
  .next (complete false (advance 2 s))

/-- NOP3, no operation, 3 bytes (45_stack_misc R457). -/
def execNop3 (s : State) : Outcome :=
  .next (complete false (advance 3 s))

/-- BPT, breakpoint trap; a late overflow trap comes in its place (log 25) (45_stack_misc R458). -/
def execBpt (s : State) : Outcome :=
  let s := advance 1 s
  if s.pendingOverflow then .next (complete false s) else .next (raise .breakpoint s)

/-- CFLUSH, cache flush (45_stack_misc R459). -/
def execCflush (s : State) : Outcome :=
  .next (complete false (advance 1 (flushCache s)))

/-- EXTOP, extended opcode (45_stack_misc R460). -/
def execExtop (s : State) : Outcome :=
  .next (fault .reservedOpcode s)

end Sys2Proof.Machine
end

