-- ==== Sys2Proof/Machine/Fetch.lean ====
section
/-! DEFINITION. Instruction fetch, the cache and the queue, and what the environment does between steps
(spec/20_memory.md R83, R101, R105 to R108, R118, R119; spec/30_encoding.md R121). -/

namespace Sys2Proof.Machine

/-! ## Words of instructions -/

/-- The byte of a word an address means; the lowest address is the most significant (20_memory R70). -/
def laneByte (w a : Word) : Byte := w.extractLsb' (24 - 8 * (a &&& 3).toNat) 8

/-- Words of instructions that transactions delivered: (word address, word). -/
abbrev Words := List (Word × Word)

/-- The words that one word-aligned transaction for the byte at a delivers: none where it ends in a memory exception; one,
or two where a double word is answered with BLKFTCH (20_memory R118). -/
def delivered (st : Status) (size : BusSize) (s : State) (a : Word) : Words :=
  let a := wordAddress a
  match access s st size .fetch a 0 with
  | none => []
  | some q => (a, received s.mem .word q) :: (blockSecond s st size a).toList.map fun w => (a + 4, w)

/-- The status of the transaction that fetches an instruction byte (20_memory R94): the word of the first byte after a
discontinuity has a code of its own. -/
def fetchStatus (s : State) (a : Word) : Status :=
  if s.discont && wordAddress a == wordAddress s.regs.pc then .fetchDiscont else .fetch

/-- The size a prefetch is presented with (20_memory R92). -/
def prefetchSize (s : State) : BusSize := if s.inputs.prefetchWord then .word else .doubleWord

/-- Fetch the word of an instruction byte: a double word, and where it was answered without BLKFTCH a second read, a
prefetch, of the word four above (20_memory R118), which may fail (R83). The environment has its turn before each
transaction (R101). -/
def fetchWords (a : Word) (s : State) : Run (Words × State) := do
  let s ← busTurn s
  match delivered (fetchStatus s a) .doubleWord s a with
  | [w] => do
    let s ← busTurn s
    .ok (w :: delivered .prefetch (prefetchSize s) s (a + 4), s)
  | ws => .ok (ws, s)

/-! ## The cache and the queue -/

/-- The word held for a word address, the latest first. -/
def heldWord (cells : Words) (a : Word) : Option Word :=
  match cells with
  | [] => none
  | (k, w) :: rest => if k = a then some w else heldWord rest a

/-- The byte at a that words hold. -/
def wordsByte (cells : Words) (a : Word) : Option Byte := (heldWord cells (wordAddress a)).map (laneByte · a)

/-- The bytes that words hold from a on, without a gap, at most n. -/
def wordsBytes (cells : Words) (a : Word) (n : Nat) : List Byte :=
  match n with
  | 0 => []
  | n + 1 =>
    match wordsByte cells a with
    | some b => b :: wordsBytes cells (a + 1) n
    | none => []

/-- The byte the cache delivers, if it is used and holds one (20_memory R106, R108). -/
def cachedByte (s : State) (a : Word) : Option Byte :=
  if pswCd s.regs.psw then none
  else if s.cacheCorrupt then Config.corruptByte s.free a
  else s.icache.lookup a

/-- The bytes the queue delivers from the program counter on; none is used after a discontinuity (20_memory R119). -/
def queued (s : State) : List Byte := if s.discont then [] else s.iqueue

/-! ## IFetch -/

/-- The byte at a without a transaction: from the queue, the cache, or the words fetched last (20_memory R105, R118). -/
def byteAtHand (held : Words) (a : Word) (s : State) : Option Byte :=
  match (queued s)[(a - s.regs.pc).toNat]? with
  | some b => some b
  | none =>
    match cachedByte s a with
    | some b => some b
    | none => wordsByte held a

/-- IFetch: a byte at hand, or from memory; none for a memory exception (30_encoding R121). It answers the words fetched
last beside the byte. -/
def fetchByte (held : Words) (a : Word) (s : State) : Run (Option Byte × Words × State) :=
  match byteAtHand held a s with
  | some b => .ok (some b, held, s)
  | none => do
    let (held, s) ← fetchWords a s
    .ok (wordsByte held a, held, s)

/-- The decoder needs more bytes (30_encoding R123). -/
def unfinished (bytes : Stream) : Bool :=
  match decode bytes with
  | .error .fetchFault => true
  | _ => false

/-- Fetch byte after byte, at most n, until the decoder has what it needs or a fetch fails; addresses wrap (10_state
R30). -/
def fetchFrom (n : Nat) (bytes : Stream) (held : Words) (a : Word) (s : State) : Run (Stream × Words × State) :=
  match n with
  | 0 => .ok (bytes, held, s)
  | n + 1 => do
    let (b, held, s) ← fetchByte held a s
    let bytes := bytes ++ [b]
    if b.isSome && unfinished bytes then fetchFrom n bytes held (a + 1) s else .ok (bytes, held, s)

/-- The bytes of the instruction at the program counter, as many as the decoder needs and at most as many as the longest
instruction has (30_encoding R124), with the words fetched last. -/
def instructionStream (s : State) : Run (Stream × Words × State) := fetchFrom maxLength [] [] s.regs.pc s

/-- The queue as an instruction of a length begins: its bytes are out of it, and those that arrived with its last words
may stay (20_memory R118), 8 at most (00_scope R7). -/
def keepQueue (len : Nat) (held : Words) (s : State) : State :=
  let rest := (queued s).drop len
  let more := wordsBytes held (s.regs.pc + BitVec.ofNat 32 (len + rest.length)) s.inputs.queueKeep
  { s with iqueue := (rest ++ more).take 8 }

/-- The exception of a decoding error (30_encoding R152). -/
def decodeExn : DecodeError → Exn
  | .illegalOpcode => .illegalOpcode
  | .reservedDataType => .reservedDataType
  | .invalidDescriptor => .invalidDescriptor
  | .fetchFault => .externalMemory

/-- The start of every instruction: TM is set (10_state R35), and the flags a hazard may show are noted
(70_reset_and_hazards R610). -/
def beginInstruction (s : State) : State :=
  { setPsw (withTm true s.regs.psw) s with prevFlags := s.flagsAtStart, flagsAtStart := flags s }

/-! ## Between steps -/

/-- Prefetch words for the cache; a faulted prefetch delivers nothing (20_memory R83). -/
def prefetchedWords (s : State) (addresses : List Word) : Words :=
  addresses.flatMap (delivered .prefetch (prefetchSize s) s)

/-- The bytes of a word, each at its address. -/
def wordCells (e : Word × Word) : List (Word × Byte) :=
  [0, 1, 2, 3].map fun k : Word => (e.1 + k, laneByte e.2 k)

/-- The pairs of the latest n words. -/
def latestWords (n : Nat) (cells : List (Word × Byte)) : List (Word × Byte) :=
  cells.filter fun e => ((cachedWords cells).take n).contains (wordAddress e.1)

/-- The cache after the bytes given up and the words prefetched, of at most 64 words (00_scope R7). Of a word prefetched it
takes each byte or leaves it as it was, so that the bytes of one word may be of different moments (20_memory R106, D4). It
takes none while it is disabled (20_memory R108). -/
def fillCache (i : Inputs) (s : State) : State :=
  if pswCd s.regs.psw then s
  else
    let taken := ((prefetchedWords s i.cacheFill).flatMap wordCells).filter fun e => !i.cacheKeep.contains e.1
    let left := s.icache.filter fun e => !i.cacheDrop.contains e.1 && !(taken.map (·.1)).contains e.1
    { s with icache := latestWords 64 (taken ++ left) }

/-- The address of the first byte in the queue: behind the instruction that is under way, if one is (the instructions
that iterate have two bytes, 40_data_transfer R217). -/
def queueBase (s : State) : Word :=
  match s.phase with
  | .iterating _ => s.regs.pc + 2
  | .coprocessor _ _ len => s.regs.pc + BitVec.ofNat 32 len
  | _ => s.regs.pc

/-- Prefetch n bytes into the queue, which holds 8 (00_scope R7), from the cache (20_memory R108), the words prefetched
last, or memory; a faulted prefetch brings none (20_memory R83). -/
def fillQueue (n : Nat) (held : Words) (s : State) : State :=
  match n with
  | 0 => s
  | n + 1 =>
    let a := queueBase s + BitVec.ofNat 32 s.iqueue.length
    let held := if (wordsByte held a).isSome then held else delivered .prefetch (prefetchSize s) s a
    match (cachedByte s a).or (wordsByte held a) with
    | some b => if s.iqueue.length < 8 then fillQueue n held { s with iqueue := s.iqueue ++ [b] } else s
    | none => s

/-- Instructions are fetched: not while the machine waits (46_operating_system R486) or is in a reset
(70_reset_and_hazards R600). -/
def fetching (s : State) : Bool :=
  match s.phase with
  | .waiting => false
  | .resetting _ => false
  | _ => true

/-- What the environment presents at this step: prefetches take memory as it is before the other masters' writes
(20_memory R101, R106). -/
def absorb (i : Inputs) (s : State) : State :=
  let s := { s with inputs := i }
  let s := if fetching s then fillQueue i.queueFill [] (fillCache i s) else s
  { s with mem := busWritten s.mem i.busWrites }

/-- Sample the environment: the next entry of upcoming, or what it presented before; the free counter advances. -/
def sample (s : State) : State :=
  let s := { s with free := s.free + 1 }
  match s.upcoming with
  | [] => s
  | i :: rest => absorb i { s with upcoming := rest }

end Sys2Proof.Machine
end

