-- ==== Sys2Proof/Machine/Cycle.lean ====
section
/-! DEFINITION. What one step does, by the phase the machine is in (spec/60_exceptions.md R514, R530, R540, R541). -/

namespace Sys2Proof.Machine

/-- Fetch, decode and execute the instruction at the program counter (30_encoding R152). -/
def runInstruction (s : State) : Outcome :=
  match instructionStream (beginInstruction s) with
  | .error (e, s) => .next (fault e s)
  | .ok (bytes, held, s) =>
    match decode bytes with
    | .ok (i, _) => exec i (keepQueue (encode i).length held s)
    | .error e => .next (fault (decodeExn e) s)

/-- An interrupt is accepted here: one is requested, and STOP is not asserted (60_exceptions R530, R540). -/
def interruptDue (s : State) : Bool := interruptAccepted s && !s.inputs.stop

/-- The outcome of one step of the block moves. A failure of an interrupt's block moves leaves a late overflow trap pending,
as a failure of its sequence does (takeInterrupt); one of CALLPS's or RETPS's drops it, as a fault of an instruction does.
The rules speak of an instruction only (70_reset_and_hazards R612; DESIGN CHOICE, log 25). -/
def moved (owner : Switch) (r : Run State) : Outcome :=
  match owner, r with
  | .interrupt, .error (e, s) => .next (raise e s)
  | _, r => conclude r

/-- One step by phase. -/
def byPhase (s : State) : Outcome :=
  match s.phase with
  | .running =>
    if s.inputs.stop then .next s
    else if interruptDue s then .next (takeInterrupt s)
    else runInstruction s
  | .waiting => .next (if interruptDue s then takeInterrupt s else s)
  | .iterating k => if interruptDue s then .next (takeInterrupt s) else conclude (iterate k s)
  | .coprocessor ea words len => conclude (copFinish ea words len s)
  | .blockMoves owner copying => moved owner (moveStep owner copying s)
  | .resetting true => .next (runReset true (recordCause .externalReset s))
  | .resetting false => .next (runReset false s)

/-- One step after the environment was sampled: an external reset comes before anything else
(60_exceptions R514, 70_reset_and_hazards R600). -/
def cycle (s : State) : Outcome :=
  if s.inputs.resetr then .next { s with phase := .resetting true } else byPhase s

/-- An instruction placed at the program counter: its bytes in memory and nothing in the cache, with an environment
that asks for nothing and physical addressing, so that the next step fetches and runs it. Log 29. -/
def placeInstruction (bytes : List Byte) (s : State) : State :=
  let padded := bytes ++ List.replicate (maxLength - bytes.length) 0
  { s with
    mem := busWritten s.mem ((List.range padded.length).map fun k => (s.regs.pc + BitVec.ofNat 32 k, padded.getD k 0))
    icache := []
    iqueue := []
    cacheCorrupt := false
    virtualMode := false
    kernelForced := false
    phase := .running
    inputs := Inputs.idle
    upcoming := []
    bus := [] }

end Sys2Proof.Machine
end

