-- ==== Sys2Proof/Machine/Step.lean ====
section
/-! DEFINITION. One step of the machine. -/

namespace Sys2Proof.Machine

/-- One step: sample the environment, then reset, an interrupt, an instruction, or one more piece of what is under
way. -/
def step (s : State) : Host.Outcome State Fault Refusal := cycle (sample s)

/-- s with the instruction of an opcode-table word where the next step fetches it (log 28, log 29). -/
def State.withFetchWord (s : State) (nbits w : Nat) : State := placeInstruction (tableBytes nbits w) s

end Sys2Proof.Machine
end

