-- ==== Sys2Proof/Safety.lean ====
section
/-! DEFINITION. What a safe outcome and a well-formed state are, and the relations between a state and the next one in
which the statements are written. Each is about State, the registers and one byte of memory; none runs a meaning. -/

namespace Sys2Proof.Machine

/-! ## Invariants -/

/-- The machine goes on: no fault, no refusal. -/
def Goes (o : Outcome) : Prop := ∃ t, o = .next t

/-- Kernel level is forced only while block moves are under way or a reset sequence is (10_state R52: false between
instructions). -/
def forcedOk (s : State) : Bool :=
  match s.phase with
  | .blockMoves _ _ => true
  | .resetting _ => true
  | _ => !s.kernelForced

/-- The invariant of the machine: memory is in its canonical form, PSW bits 31:26 are 0 (10_state R48), kernel level is
not forced between instructions (10_state R52), and the cache holds bytes of at most 64 words and the queue at most 8
bytes (00_scope R7). -/
def State.Inv (s : State) : Prop :=
  s.mem.wf = true ∧ s.regs.psw &&& 0xFC000000 = 0 ∧ forcedOk s = true ∧ (cachedWords s.icache).length ≤ 64 ∧ s.iqueue.length ≤ 8

/-! ## Memory -/

/-- The addresses a datum of a size at an address covers; they wrap (10_state R30). -/
def covers (size : Size) (a x : Word) : Prop := (x - a).toNat < size.bytes

/-- Every byte of memory reads as before. -/
def SameMemory (s w : State) : Prop := ∀ x, peek w.mem x = peek s.mem x

/-- What a write that reached q left: in memory, the datum at its physical address reads as the low bits of v and every
byte outside it reads as before; a device keeps it from memory (20_memory R90). -/
def StoredAt (size : Size) (q : Reached) (v : Word) (s w : State) : Prop :=
  match q with
  | .memory p => readData w.mem size p = truncated size v ∧ ∀ x, ¬covers size p x → peek w.mem x = peek s.mem x
  | .device _ => SameMemory s w

/-- Memory after the words vs were written, one after the other, as far as their writes reached the places qs. -/
def landed (m : Memory) (vs : List Word) (qs : List Reached) : Memory :=
  (vs.zip qs).foldl (fun m e => deposited m .word e.2 e.1) m

/-- An address is a multiple of 4 (20_memory R82). -/
def Aligned (a : Word) : Prop := misaligned .word a = false

/-- No MMU translates, only memory answers, and nothing happens on the bus between the CPU's transactions: an aligned
access succeeds, at its own address. -/
def Plain (s : State) : Prop := s.virtualMode = false ∧ s.inputs.replies = [] ∧ s.bus = []

/-- The word of memory at an address. -/
def wordAt (s : State) (a : Word) : Word := readData s.mem .word a

/-! ## What stays -/

/-- Every register but those listed, the program counter and the PSW is as before. -/
def RegsBut (rs : List Reg) (s w : State) : Prop := ∀ r, r ∉ rs → r ≠ .pc → r ≠ .psw → reg w r = reg s r

/-- What no ordinary instruction touches: everything but the registers, memory and what instruction fetch uses. -/
structure SameMachine (s w : State) : Prop where
  virtualMode : w.virtualMode = s.virtualMode
  kernelForced : w.kernelForced = s.kernelForced
  phase : w.phase = s.phase
  pendingOverflow : w.pendingOverflow = s.pendingOverflow
  traceOpen : w.traceOpen = s.traceOpen
  flagsAtStart : w.flagsAtStart = s.flagsAtStart
  prevFlags : w.prevFlags = s.prevFlags
  free : w.free = s.free
  inputs : w.inputs = s.inputs
  upcoming : w.upcoming = s.upcoming
  bus : w.bus = s.bus
  copBus : w.copBus = s.copBus

/-- The cache is as before, and the next fetch continues behind the instruction, of length len, with the queue, which holds
what is behind it. -/
structure GoesOn (len : Nat) (s w : State) : Prop where
  pc : w.regs.pc = s.regs.pc + BitVec.ofNat 32 len
  discont : w.discont = false
  icache : w.icache = s.icache
  iqueue : w.iqueue = s.iqueue
  cacheCorrupt : w.cacheCorrupt = s.cacheCorrupt

/-- Control is at a target: the cache is as before, the queue is empty (20_memory R119). -/
structure GoesTo (target : Word) (s w : State) : Prop where
  pc : w.regs.pc = target
  discont : w.discont = true
  icache : w.icache = s.icache
  iqueue : w.iqueue = []
  cacheCorrupt : w.cacheCorrupt = s.cacheCorrupt

/-- N, Z, V, C are f, unless they are kept (10_state R32); every other bit of the PSW is as before. -/
def FlagsAre (keep : Bool) (f : BitVec 4) (s w : State) : Prop :=
  flags w = (if keep then flags s else f) ∧ w.regs.psw &&& ~~~maskFlags = s.regs.psw &&& ~~~maskFlags

/-- The PSW is as before. -/
def SamePsw (s w : State) : Prop := w.regs.psw = s.regs.psw

/-! ## An instruction with a destination -/

/-- A destination register is written only where its privilege allows it (10_state R26). -/
def Permitted (dst : Operand) (s : State) : Prop :=
  ∀ r, dst.mode = .register r → isPrivileged r = true → isKernel s = true

/-- A store of a type at a resolved place succeeds, at once. -/
def Storable (t : OType) (p : Place) (s : State) : Prop :=
  match p with
  | .register _ => True
  | .memory a => s.bus = [] ∧ ∀ v, (writeReach s .write (typeSize t) a v).isSome = true

/-- The result v, of type t, is in the place p, and nothing else changed but the flags (f, or kept) and the program
counter (past the instruction, of length len). A register takes all 32 bits (20_memory R76). The PSW takes bits 25:9
(10_state R49), the flags among them, also where a source is %psw (log 44), and not bit 7 (70_reset_and_hazards R611, log
11). A change of CD leaves the cache contents arbitrary (20_memory R108, log 11), and one of TE the next trace test open
(10_state R42, log 31). Memory takes the low bits of the type's size at the physical address of the place. -/
def Wrote (t : OType) (p : Place) (v : Word) (keep : Bool) (f : BitVec 4) (len : Nat) (s w : State) : Prop :=
  SameMachine (if p = .register .psw then { s with traceOpen := s.traceOpen || (pswTe v != pswTe s.regs.psw) } else s) w ∧
    match p with
    | .memory a =>
      GoesOn len s w ∧ RegsBut [] s w ∧ FlagsAre keep f s w ∧
        ∃ q, writeReach s .write (typeSize t) a v = some q ∧ StoredAt (typeSize t) q v s w
    | .register .psw =>
      RegsBut [] s w ∧ SameMemory s w ∧
        w.regs.psw = (s.regs.psw &&& 0x000001FF) ||| (v &&& 0x03FFFE00) ∧
        w.regs.pc = s.regs.pc + BitVec.ofNat 32 len ∧ w.discont = false ∧ w.icache = s.icache ∧
        w.iqueue = s.iqueue ∧ w.cacheCorrupt = (s.cacheCorrupt || (pswCd v != pswCd s.regs.psw))
    | .register r =>
      GoesOn len s w ∧ RegsBut [r] s w ∧ SameMemory s w ∧ FlagsAre keep f s w ∧ reg w r = v

/-- The flags of an instruction are left alone where it reads %psw or writes it (10_state R32). -/
def keepsFlags (sources : List Operand) (p : Place) : Bool := sources.any readsPsw || p == .register .psw

/-- The instruction sets V, so that an overflow may trap (30_encoding R152 step 8): no source is %psw, or the destination is,
where 41_arithmetic R244 tests whether the result fits. -/
def tellsOverflow (sources : List Operand) (p : Place) : Bool := p == .register .psw || !sources.any readsPsw

/-- A source operand in its place: well-formed, of type t, reading v, with nothing happening on the bus meanwhile
(30_encoding R143, R147). -/
def SourceIs (cur : OType) (o : Operand) (s : State) (t : OType) (v : Value) : Prop :=
  o.wellFormed .src = true ∧ t = typeAt cur o ∧ readSource t o.mode s = .ok (v, s)

/-- A destination operand in its place: well-formed, permitted, of type t, resolved to a place that can be written
(30_encoding R143, R148). -/
def DestIs (cur : OType) (o : Operand) (s : State) (t : OType) (p : Place) : Prop :=
  o.wellFormed .dst = true ∧ Permitted o s ∧ t = typeAt cur o ∧ resolve o.mode s = .ok (p, s) ∧ Storable t p s

/-- An operand of a role that only takes memory modes, with its effective address (30_encoding R149). -/
def AddressIs (role : Role) (o : Operand) (s : State) (a : Word) : Prop :=
  o.wellFormed role = true ∧ effectiveAddress o.mode s = .ok (a, s)

/-! ## The operand reads of an instruction -/

/-- The operand reads of an instruction, in operand order (20_memory R95): its sources, then the pointer of its
destination, and the destination itself where the instruction reads it; with what they give. -/
def operandReads (cur : OType) (sources : List Operand) (dst : Option (Operand × Bool)) (s : State) :
    Run (List Value × Option Place × State) :=
  match sources with
  | o :: rest => do
    let (v, s) ← readSource (typeAt cur o) o.mode s
    let (vs, p, s) ← operandReads (typeAt cur o) rest dst s
    .ok (v :: vs, p, s)
  | [] =>
    match dst with
    | none => .ok ([], none, s)
    | some (o, read) => do
      let (p, s) ← resolve o.mode s
      if read then do
        let (d, s) ← readPlace (typeAt cur o) p s
        .ok ([d], some p, s)
      else .ok ([], some p, s)

/-- The type in force behind some operands (30_encoding R143). -/
def typeAfter (cur : OType) (os : List Operand) : OType := os.foldl typeAt cur

/-- OP src,dst where dst is only written, with the type of the mnemonic. -/
def copyForms : List ((Operand → Operand → Instr) × OType) :=
  [(.movb, .ubyte), (.movh, .shalf), (.movw, .sword), (.mcomb, .ubyte), (.mcomh, .shalf), (.mcomw, .sword),
    (.mnegb, .ubyte), (.mnegh, .shalf), (.mnegw, .sword)]

/-- OP src,dst where dst is read and written, with the type of the mnemonic and whether it divides. -/
def updateForms : List ((Operand → Operand → Instr) × OType × Bool) :=
  [(.addb2, .ubyte, false), (.addh2, .shalf, false), (.addw2, .sword, false), (.subb2, .ubyte, false),
    (.subh2, .shalf, false), (.subw2, .sword, false), (.mulb2, .ubyte, false), (.mulh2, .shalf, false),
    (.mulw2, .sword, false), (.divb2, .ubyte, true), (.divh2, .shalf, true), (.divw2, .sword, true),
    (.modb2, .ubyte, true), (.modh2, .shalf, true), (.modw2, .sword, true), (.andb2, .ubyte, false),
    (.andh2, .shalf, false), (.andw2, .sword, false), (.orb2, .ubyte, false), (.orh2, .shalf, false),
    (.orw2, .sword, false), (.xorb2, .ubyte, false), (.xorh2, .shalf, false), (.xorw2, .sword, false)]

/-- OP src1,src2,dst, with the type of the mnemonic and whether it divides. -/
def tripleForms : List ((Operand → Operand → Operand → Instr) × OType × Bool) :=
  [(.addb3, .ubyte, false), (.addh3, .shalf, false), (.addw3, .sword, false), (.subb3, .ubyte, false),
    (.subh3, .shalf, false), (.subw3, .sword, false), (.mulb3, .ubyte, false), (.mulh3, .shalf, false),
    (.mulw3, .sword, false), (.divb3, .ubyte, true), (.divh3, .shalf, true), (.divw3, .sword, true),
    (.modb3, .ubyte, true), (.modh3, .shalf, true), (.modw3, .sword, true), (.andb3, .ubyte, false),
    (.andh3, .shalf, false), (.andw3, .sword, false), (.orb3, .ubyte, false), (.orh3, .shalf, false),
    (.orw3, .sword, false), (.xorb3, .ubyte, false), (.xorh3, .shalf, false), (.xorw3, .sword, false),
    (.alsw3, .sword, false), (.arsb3, .ubyte, false), (.arsh3, .shalf, false), (.arsw3, .sword, false),
    (.llsb3, .ubyte, false), (.llsh3, .shalf, false), (.llsw3, .sword, false), (.lrsw3, .sword, false),
    (.rotw, .sword, false)]

/-- INCx, DECx (dst is read) and CLRx, with the type of the mnemonic. -/
def unaryForms : List ((Operand → Instr) × OType × Bool) :=
  [(.incb, .ubyte, true), (.inch, .shalf, true), (.incw, .sword, true), (.decb, .ubyte, true), (.dech, .shalf, true),
    (.decw, .sword, true), (.clrb, .ubyte, false), (.clrh, .shalf, false), (.clrw, .sword, false)]

/-- EXTFx and INSFx (dst is read), with the type of the mnemonic. -/
def fieldForms : List ((Operand → Operand → Operand → Operand → Instr) × OType × Bool) :=
  [(.extfb, .ubyte, false), (.extfh, .shalf, false), (.extfw, .sword, false), (.insfb, .ubyte, true),
    (.insfh, .shalf, true), (.insfw, .sword, true)]

/-! ## Instructions without a destination operand -/

/-- Only the flags change, unless they are kept, and control goes on behind the instruction. -/
def SetsFlags (keep : Bool) (f : BitVec 4) (len : Nat) (s w : State) : Prop :=
  SameMachine s w ∧ GoesOn len s w ∧ RegsBut [] s w ∧ SameMemory s w ∧ FlagsAre keep f s w

/-- Only the registers listed change, and control goes on behind the instruction. -/
def Advances (rs : List Reg) (len : Nat) (s w : State) : Prop :=
  SameMachine s w ∧ GoesOn len s w ∧ RegsBut rs s w ∧ SameMemory s w ∧ SamePsw s w

/-- Only the registers listed change, and control is at a target. -/
def Jumps (rs : List Reg) (target : Word) (s w : State) : Prop :=
  SameMachine s w ∧ GoesTo target s w ∧ RegsBut rs s w ∧ SameMemory s w ∧ SamePsw s w

/-- Between two iterations of k: only the registers listed changed, and the program counter is at the instruction
still (40_data_transfer R217). -/
def Iterates (k : Iteration) (rs : List Reg) (s w : State) : Prop :=
  SameMachine { s with phase := .iterating k } w ∧ RegsBut rs s w ∧ SamePsw s w ∧ w.regs.pc = s.regs.pc ∧
    w.discont = s.discont ∧ w.icache = s.icache ∧ w.iqueue = s.iqueue ∧ w.cacheCorrupt = s.cacheCorrupt

/-! ## The stack, gates and processes -/

/-- The n words from a up are what memory holds after, and every byte outside them reads as before. -/
def WordsAt (a : Word) (vs : List Word) (s w : State) : Prop :=
  (∀ k, k < vs.length → wordAt w (a + BitVec.ofNat 32 (4 * k)) = vs.getD k 0) ∧
    ∀ x, ¬(x - a).toNat < 4 * vs.length → peek w.mem x = peek s.mem x

/-- Every register but those listed (the program counter and the PSW may be among them) is as before. -/
def OnlyRegs (rs : List Reg) (s w : State) : Prop := ∀ r, r ∉ rs → reg w r = reg s r

/-- The PSW an interrupt, an exception or a GATE installs from a table entry: PM from the old CM, R and IPL from the old
PSW, ISC 7, TM 1, ET 3, the rest from the entry (46_operating_system R473). -/
def gatePsw (old entry : Word) : Word :=
  (entry &&& 0x03FE1880) ||| ((old >>> 2) &&& 0x00000600) ||| (old &&& 0x0001E100) ||| 0x0000003F

/-- The PSW a process switch installs from a PCB: R from r, I cleared, the codes as given, the rest from the image
(46_operating_system R477). -/
def processPsw (r : Bool) (codes image : Word) : Word :=
  (image &&& 0x03FFFE00) ||| (if r then 0x00000100 else 0) ||| codes

/-- The PCBP after a process switch: past the initial context if the image has I set (46_operating_system R477). -/
def processPcbp (pcb image : Word) : Word := if pswI image then pcb + 12 else pcb

/-- The cache after a process switch: flushed, unless the new PSW has CFD set (46_operating_system R477). -/
def Flushed (image : Word) (s w : State) : Prop :=
  if pswCfd image then w.icache = s.icache ∧ w.cacheCorrupt = s.cacheCorrupt
  else w.icache = [] ∧ w.cacheCorrupt = false

/-! ## Refused accesses -/

/-- No word can be read at a as data (20_memory R80, R82). -/
def Unreadable (s : State) (a : Word) : Prop := memRead s .operandFetch .word a = none

/-- No word can be written at a, whatever its value (20_memory R80, R82). -/
def Unwritable (s : State) (a : Word) : Prop := ∀ v, writeReach s .write .word a v = none

/-- Every word can be written at a. -/
def Writable (s : State) (a : Word) : Prop := ∀ v, (writeReach s .write .word a v).isSome = true

/-- The places in a PCB, in words, at which XSWITCH_ONE saves registers if R is set (46_operating_system R476). -/
def registerPlaces : List Nat := [5, 6, 7, 8, 9, 10, 11, 12, 13, 14, 15]

/-- The word of a PCB at a place. -/
def pcbWord (s : State) (k : Nat) : Word := s.regs.pcbp + BitVec.ofNat 32 (4 * k)

/-- An access that XSWITCH_ONE makes whatever R is, is refused: the image of the new PSW at t, or a word of the PCB
(46_operating_system R476). -/
def ContextRefused (t : Word) (s : State) : Prop := Unreadable s t ∨ ∃ k ∈ [0, 1, 2], Unwritable s (pcbWord s k)

/-- Every access that XSWITCH_ONE makes, R set or clear, succeeds (46_operating_system R476). -/
def ContextGranted (t : Word) (s : State) : Prop :=
  ¬Unreadable s t ∧ ∀ k ∈ [0, 1, 2] ++ registerPlaces, Writable s (pcbWord s k)

/-- A word XSWITCH_TWO reads of the PCB at t cannot be read (46_operating_system R477). -/
def ContextUnreadable (t : Word) (s : State) : Prop := ∃ x ∈ [t, t + 4, t + 8], Unreadable s x

end Sys2Proof.Machine
end

