-- ==== Sys2Proof/Certificates/Slice0/Obligations.lean ====
section
/-! DEFINITION. The statements for the provers. Most say what an instruction's outcome is: exec answers
next (complete o w), where w is the state with the instruction's effect, described field by field with its frame, and
complete takes at most one trap (its own statement: CompletionTakesOneTrap). A row of a list is a constructor with the
operation and the type the rules give it. -/

open Sys2Proof Sys2Proof.Machine

/-! ## Encoding -/

/-- The byte strings of the manual's worked encodings decode to their instructions, with one string for each family
(30_encoding R172; 95_test_vectors A1, A2, A4). -/
def Obligations.SpecWordsDecode : Prop :=
  (∀ e ∈ ([
    ([0x90, 0x42], .incw { mode := .register .r2 }),
    ([0x84, 0x52, 0x43], .movw { mode := .deferred .r2 } { mode := .register .r3 }),
    ([0x87, 0xC2, 0x30, 0x43], .movb { mode := .displacement (.byte 0x30) .r2 } { mode := .register .r3 }),
    ([0x87, 0xD2, 0x30, 0x43], .movb { mode := .displacementDeferred (.byte 0x30) .r2 } { mode := .register .r3 }),
    ([0x84, 0x4F, 0x78, 0x56, 0x34, 0x12, 0x42],
      .movw { mode := .immediate (.word 0x12345678) } { mode := .register .r2 }),
    ([0x87, 0x7F, 0x04, 0x2E, 0x00, 0x00, 0x40], .movb { mode := .absolute 0x2E04 } { mode := .register .r0 }),
    ([0x87, 0xEF, 0x04, 0x2E, 0x00, 0x00, 0x40], .movb { mode := .absoluteDeferred 0x2E04 } { mode := .register .r0 }),
    ([0x87, 0xE7, 0x40, 0xE2, 0xC1, 0x04],
      .movb { ty := some .sbyte, mode := .register .r0 }
        { ty := some .uhalf, mode := .displacement (.byte 4) .r1 })] : List (List Byte × Instr)),
    decode (e.1.map some) = .ok (e.2, [])) ∧
  (∀ e ∈ ([
    ([0xC8, 0x0B, 0x08, 0x41, 0x40],
      .insfw { mode := .literal 11 } { mode := .literal 8 } { mode := .register .r1 } { mode := .register .r0 }),
    ([0xD8, 0x5F, 0x04, 0x04, 0x40, 0x40],
      .rotw { mode := .immediate (.half 0x404) } { mode := .register .r0 } { mode := .register .r0 }),
    ([0x5A, 0x34, 0x12], .bcsh 0x1234),
    ([0x17, 0x00, 0x10, 0x00, 0x00, 0xC2, 0x04], .spopwt 0x1000 { mode := .displacement (.byte 4) .r2 }),
    ([0xE0, 0xC6, 0x14], .pushaw { mode := .displacement (.byte 0x14) .r6 }),
    ([0x30, 0x61], .gate)] : List (List Byte × Instr)),
    decode (e.1.map some) = .ok (e.2, []))

/-- Decoding an encoded well-formed instruction gives it back, whatever bytes follow; a second name decodes as its twin
(30_encoding R159). The ignored bytes of NOP2, NOP3 and EXTOP are not consumed. -/
def Obligations.DecodeEncodeAgree : Prop :=
  ∀ (i : Instr) (rest : Stream), i.wellFormed = true →
    ∃ tail, decode ((encode i).map some ++ rest) = .ok (canonical i, tail) ∧
      (i ≠ .nop2 → i ≠ .nop3 → i ≠ .extop → tail = rest)

/-- An unassigned opcode decodes to the illegal-opcode error, in the first byte and after the prefix 0x30 (30_encoding
R158). That all of these are illegal and none reserved is the spec's decision D11, log 6. -/
def Obligations.UnassignedOpcodesAreIllegal : Prop :=
  (∀ (b : Byte) (rest : Stream),
    b ∈ ([0x00, 0x01, 0x05, 0x09, 0x0A, 0x0B, 0x0D, 0x0E, 0x0F, 0x11, 0x12, 0x15, 0x16, 0x19, 0x1A, 0x1B, 0x1D, 0x21,
      0x25, 0x26, 0x29, 0x2D, 0x31, 0x35, 0x39, 0x3D, 0x41, 0x45, 0x49, 0x4D, 0x51, 0x55, 0x59, 0x5D, 0x61, 0x65, 0x69,
      0x6D, 0x71, 0x75, 0x79, 0x7D, 0x81, 0x85, 0x89, 0x8D, 0x91, 0x95, 0x98, 0x99, 0x9A, 0x9B, 0x9D, 0xA1, 0xA2, 0xA3,
      0xA5, 0xA9, 0xAD, 0xB1, 0xB5, 0xB9, 0xBD, 0xC1, 0xC2, 0xC3, 0xC5, 0xC9, 0xCD, 0xD1, 0xD5, 0xD6, 0xD7, 0xD9, 0xDA,
      0xDB, 0xDD, 0xE1, 0xE2, 0xE3, 0xE5, 0xE9, 0xED, 0xF1, 0xF5, 0xF9, 0xFD] : List Byte) →
    decode (some b :: rest) = .error .illegalOpcode) ∧
  ∀ (b : Byte) (rest : Stream),
    b ∉ ([0x09, 0x0D, 0x13, 0x19, 0x1F, 0x2F, 0x35, 0x45, 0x61, 0xAC, 0xC8] : List Byte) →
    decode (some 0x30 :: some b :: rest) = .error .illegalOpcode

/-! ## Steps -/

/-- What a step runs: if the environment asks for nothing and the bytes fetched at the program counter decode to i, the
step is exec of i, at the state with TM set (10_state R35) and the flags noted that a %psw read may still see
(70_reset_and_hazards R610); t is that state after what happens on the bus during the fetch (20_memory R101), and q the
queue, from which the bytes of i are gone: without the environment's leave nothing new is in it (20_memory R118, R119; log
18). -/
def Obligations.StepRunsTheDecodedInstruction : Prop :=
  ∀ (s t : State) (i : Instr) (bytes rest : Stream) (held : Words),
    (sample s).phase = .running → (sample s).inputs.resetr = false → (sample s).inputs.stop = false →
    interruptAccepted (sample s) = false →
    instructionStream (beginInstruction (sample s)) = .ok (bytes, held, t) → decode bytes = .ok (i, rest) →
    (∃ q, step s = exec i { t with iqueue := q } ∧ q.length ≤ 8 ∧
      (t.inputs.queueKeep = 0 → q = ((if t.discont then [] else t.iqueue).drop (encode i).length).take 8)) ∧
      ((sample s).bus = [] → t = beginInstruction (sample s)) ∧
      beginInstruction (sample s) =
        { setPsw ((sample s).regs.psw &&& ~~~0x7 ||| ((sample s).regs.psw &&& 0x3 ||| 0x4)) (sample s) with
          prevFlags := (sample s).flagsAtStart, flagsAtStart := flags (beginInstruction (sample s)) }

/-- An instruction stored in memory at the program counter is the one the next step runs, where the cache and the queue
hold nothing, memory answers every access and nothing happens on the bus; what the queue then holds are the bytes memory
has behind it (20_memory R118). -/
def Obligations.StepRunsTheStoredInstruction : Prop :=
  ∀ (s : State) (i : Instr),
    i.wellFormed = true → s.phase = .running → s.upcoming = [] → s.inputs.resetr = false → s.inputs.stop = false →
    interruptAccepted s = false → Plain s → s.icache = [] → s.iqueue = [] → s.cacheCorrupt = false →
    (∀ k, k < (encode i).length → peek s.mem (s.regs.pc + BitVec.ofNat 32 k) = (encode i).getD k 0) →
    ∃ q : List Byte, step s = exec (canonical i) { beginInstruction { s with free := s.free + 1 } with iqueue := q } ∧
      q.length ≤ s.inputs.queueKeep ∧
      ∀ k, k < q.length → q[k]? = some (peek s.mem (s.regs.pc + BitVec.ofNat 32 ((encode i).length + k)))

/-- Bytes that decode to no instruction raise the exception the rules name: IllegalOpcode, ReservedDataType,
InvalidDescriptor, or ExternalMemory for a byte that cannot be fetched (30_encoding R121, R144, R145, R158). A reset
request during the fetch abandons the instruction (60_exceptions R514). -/
def Obligations.StepTakesTheDecodingFault : Prop :=
  ∀ (s t : State),
    (sample s).phase = .running → (sample s).inputs.resetr = false → (sample s).inputs.stop = false →
    interruptAccepted (sample s) = false →
    (∀ (bytes : Stream) (held : Words) (d : DecodeError) (e : Exn),
      (d, e) ∈ [(.illegalOpcode, .illegalOpcode), (.reservedDataType, .reservedDataType),
        (.invalidDescriptor, .invalidDescriptor), (.fetchFault, .externalMemory)] →
      instructionStream (beginInstruction (sample s)) = .ok (bytes, held, t) → decode bytes = .error d →
      step s = .next (fault e t)) ∧
    ∀ e : Exn, instructionStream (beginInstruction (sample s)) = .error (e, t) →
      step s = .next { t with phase := .resetting true, pendingOverflow := false }

/-- When an interrupt is accepted: NMINT always, a level on the pins above PSW IPL otherwise; a masked request lets the
instruction run, and STOP holds everything back (60_exceptions R530, R540). It is accepted before an instruction, while
the machine waits (R541) and between two iterations of MOVBLW, STRCPY or STREND (R535); not while a coprocessor is waited
for (44_coprocessor R433), nor within a process switch (46_operating_system R471), nor in a reset: once RESETR is dropped
the reset sequence runs, whatever the interrupt pins say, ISC 3 noted first if it is an external one (70_reset_and_hazards
R600). RESETR comes before everything (R514). That NMINT is tested by its level is the spec's decision D30 and what a
waiting machine does D27, log 6; that STOP is honoured at this boundary, and holds back an interrupt there, is log 16; that
the block moves are steps of their own is log 17. -/
def Obligations.InterruptsAreMaskedByLevel : Prop :=
  ∀ (t : State),
    let due := t.inputs.nmint = true ∨ (pswIpl t.regs.psw).toNat < (~~~t.inputs.ipl).toNat
    (t.inputs.resetr = true → cycle t = .next { t with phase := .resetting true }) ∧
    (t.inputs.resetr = false →
      (t.phase = .running → t.inputs.stop = true → cycle t = .next t) ∧
      (t.phase = .running → t.inputs.stop = false → due → cycle t = .next (takeInterrupt t)) ∧
      (t.phase = .running → t.inputs.stop = false → ¬due → cycle t = runInstruction t) ∧
      (t.phase = .waiting → t.inputs.stop = false → due → cycle t = .next (takeInterrupt t)) ∧
      (t.phase = .waiting → t.inputs.stop = true ∨ ¬due → cycle t = .next t) ∧
      (∀ k, t.phase = .iterating k → t.inputs.stop = false → due → cycle t = .next (takeInterrupt t)) ∧
      (∀ k, t.phase = .iterating k → t.inputs.stop = true ∨ ¬due → cycle t = conclude (iterate k t)) ∧
      (∀ a n len, t.phase = .coprocessor a n len → cycle t = conclude (copFinish a n len t)) ∧
      (∀ o c, t.phase = .blockMoves o c → cycle t = moved o (moveStep o c t)) ∧
      (t.phase = .resetting true → cycle t = .next (runReset true (recordCause .externalReset t))) ∧
      (t.phase = .resetting false → cycle t = .next (runReset false t)))

/-! ## Reset and the invariant -/

/-- The state after reset, where the rules state it (10_state R67): physical addressing, kernel level not forced, empty
cache and queue, not waiting, PSW R 0, I 0, ISC 3, TM 0, ET 3. -/
def Obligations.ResetState : Prop :=
  State.reset.virtualMode = false ∧ State.reset.kernelForced = false ∧ State.reset.icache = [] ∧
    State.reset.iqueue = [] ∧ State.reset.phase = .running ∧ pswR State.reset.regs.psw = false ∧
    pswI State.reset.regs.psw = false ∧ pswIsc State.reset.regs.psw = 3 ∧ pswTm State.reset.regs.psw = false ∧
    pswEt State.reset.regs.psw = 3 ∧ State.reset.regs.psw &&& 0xFC000000 = 0

/-- The invariant holds at reset, and a datum stored keeps memory in its canonical form, the model's own choice of a form
(log 4). -/
def Obligations.ResetHasInvariant : Prop :=
  State.reset.Inv ∧ ∀ (m : Memory) (size : Size) (a v : Word), m.wf = true → (writeData m size a v).wf = true

/-- The invariant is kept by every step: memory stays in its canonical form (log 4), PSW bits 31:26 stay 0 (10_state
R48), kernel level is not forced between instructions (10_state R52), and the cache holds bytes of at most 64 words and the
queue at most 8 bytes (00_scope R7). -/
def Obligations.StepKeepsInvariant : Prop := ∀ s t : State, s.Inv → step s = .next t → t.Inv

/-- The reset sequence (10_state R67, R68; 60_exceptions R523), external or after a reset exception e other than an
external reset: PCBP from the word at 0x80, PSW, PC and SP from the PCB there; TM 0, ET 3, I 0; ISC is 3 for an external
reset and R is 0, else ISC is the code of e and R stays; PCBP moves past the initial context if the image has I set;
physical addressing; the cache is empty; nothing is written. An external reset met inside an instruction leaves it where it
is, all that was written stays written (70_reset_and_hazards R600). That a late overflow trap is dropped is the spec's
decision D31 and log 25; that the trace test is not open after it is log 31; that the cache is no longer corrupt and the
next fetch follows a discontinuity is read from R107 and R119; R67 states no value for the other registers, log 32. Where
the word at 0x80 or one of the PCB cannot be read the sequence starts again at the next step, ISC 1 or 4, nothing written
(60_exceptions R575; 46_operating_system R482). -/
def Obligations.ExternalResetSequence : Prop :=
  (∀ s : State, s.inputs.replies = [] → s.bus = [] →
    let a := wordAt s 0x80
    let image := wordAt s a
    let left := fun (psw : Word) (w : State) =>
      w.regs.psw = psw ∧ w.regs.pc = wordAt s (a + 4) ∧ w.regs.sp = wordAt s (a + 8) ∧
        w.regs.pcbp = processPcbp a image ∧ w.mem = s.mem ∧
        w.virtualMode = false ∧ w.kernelForced = false ∧ w.phase = .running ∧ w.icache = [] ∧ w.iqueue = [] ∧
        w.cacheCorrupt = false ∧ w.pendingOverflow = false ∧ w.traceOpen = false ∧ w.discont = true
    Aligned a →
    (∃ w, byPhase { s with phase := .resetting true } = .next w ∧ left ((image &&& 0x03FFFE00) ||| 0x1B) w) ∧
    ∀ e : Exn, e.severity = .reset → e ≠ .externalReset →
      left (processPsw (pswR s.regs.psw) ((e.code.zeroExtend 32 <<< 3) ||| 3) image) (raise e s)) ∧
  (∀ s : State, raise .externalReset s = { s with phase := .resetting true }) ∧
  ∀ (s : State) (external : Bool), s.bus = [] →
    let k := { forceKernel true s with virtualMode := false }
    let again := fun (isc : BitVec 4) =>
      ∃ w, byPhase { s with phase := .resetting external } = .next w ∧ w.phase = .resetting false ∧
        pswIsc w.regs.psw = isc ∧ w.mem = s.mem
    (Unreadable k 0x80 → again 1) ∧
      ∀ a, memRead k .operandFetch .word 0x80 = some a → ContextUnreadable a k → again 4

/-! ## Operands -/

/-- What a source operand reads as (30_encoding R129, R130, R139, R147; 20_memory R75, R77): literals their value,
immediates extended by the type's signedness, registers and memory the low bits of the type's size, extended. %psw reads as
the whole PSW (10_state R32), except that N, Z, V, C may still be those from before the previous instruction
(70_reset_and_hazards R610; log 24). That an immediate is extended by the type's signedness is the spec's decision D14, log
6. That a byte or halfword read of %psw too takes all 32 bits is read from R147's own sentence and 10_state R32, log 41. -/
def Obligations.SourceModes : Prop :=
  ∀ (s : State) (t : OType),
    (∀ v, readSource t (.literal v) s = .ok ({ bits := BitVec.ofNat 32 v.toNat, int := v.toNat }, s)) ∧
    (∀ v : BitVec 4, readSource t (.negLiteral v) s =
      .ok ({ bits := BitVec.ofInt 32 (v.toNat - 16), int := v.toNat - 16 }, s)) ∧
    (∀ v : BitVec 8, ∃ x, readSource t (.immediate (.byte v)) s = .ok (x, s) ∧
      x.bits = (if isSigned t then v.signExtend 32 else v.zeroExtend 32) ∧ x.int = intOf t x.bits) ∧
    (∀ v : BitVec 16, ∃ x, readSource t (.immediate (.half v)) s = .ok (x, s) ∧
      x.bits = (if isSigned t then v.signExtend 32 else v.zeroExtend 32) ∧ x.int = intOf t x.bits) ∧
    (∀ v : BitVec 32, readSource t (.immediate (.word v)) s = .ok ({ bits := v, int := intOf t v }, s)) ∧
    (∀ r : Reg, r ≠ .psw → ∃ x, readSource t (.register r) s = .ok (x, s) ∧ x.bits = extend t (reg s r) ∧
      x.int = intOf t x.bits) ∧
    (∃ x, readSource t (.register .psw) s = .ok (x, s) ∧ x.int = intOf t x.bits ∧
      (pswFlags x.bits = flags s ∨ pswFlags x.bits = s.prevFlags) ∧
      x.bits &&& ~~~maskFlags = s.regs.psw &&& ~~~maskFlags) ∧
    ∀ (r : Reg) (v : Word), s.bus = [] → memRead s .operandFetch (typeSize t) (reg s r) = some v →
      ∃ x, readSource t (.deferred r) s = .ok (x, s) ∧ x.bits = extend t v ∧ x.int = intOf t x.bits

/-- The effective address of each memory mode (30_encoding R132 to R137, R140, R141): displacements are sign-extended,
the short offsets are not, and a deferred mode reads its pointer as a word with the status address fetch. That
addresses wrap is decision D1, that the pointer read has that status decision D9, log 6. -/
def Obligations.EffectiveAddresses : Prop :=
  ∀ (s : State) (r : Reg) (n : BitVec 4) (d8 : BitVec 8) (d16 : BitVec 16) (d32 a v : Word),
    let pointer := fun (b : Word) => s.bus = [] ∧ memRead s .addressFetch .word b = some v
    effectiveAddress (.deferred r) s = .ok (reg s r, s) ∧
    effectiveAddress (.fpOffset n) s = .ok (reg s .fp + BitVec.ofNat 32 n.toNat, s) ∧
    effectiveAddress (.apOffset n) s = .ok (reg s .ap + BitVec.ofNat 32 n.toNat, s) ∧
    effectiveAddress (.displacement (.byte d8) r) s = .ok (reg s r + BitVec.ofInt 32 d8.toInt, s) ∧
    effectiveAddress (.displacement (.half d16) r) s = .ok (reg s r + BitVec.ofInt 32 d16.toInt, s) ∧
    effectiveAddress (.displacement (.word d32) r) s = .ok (reg s r + d32, s) ∧
    effectiveAddress (.absolute a) s = .ok (a, s) ∧
    (pointer a → effectiveAddress (.absoluteDeferred a) s = .ok (v, s)) ∧
    (pointer (reg s r + d32) → effectiveAddress (.displacementDeferred (.word d32) r) s = .ok (v, s)) ∧
    (pointer (reg s r + BitVec.ofInt 32 d8.toInt) →
      effectiveAddress (.displacementDeferred (.byte d8) r) s = .ok (v, s)) ∧
    (pointer (reg s r + BitVec.ofInt 32 d16.toInt) →
      effectiveAddress (.displacementDeferred (.half d16) r) s = .ok (v, s))

/-- Data is big-endian, read and stored: the byte at the address is the most significant. A stored datum reads back cut to
its size, and leaves every other byte alone (20_memory R70). -/
def Obligations.StoredDataReadBack : Prop :=
  ∀ (m : Memory) (size : Size) (a v : Word), m.wf = true →
    readData (writeData m size a v) size a = truncated size v ∧
    (∀ x, ¬covers size a x → peek (writeData m size a v) x = peek m x) ∧
    (size = .word → peek (writeData m size a v) a = v.extractLsb' 24 8 ∧
      peek (writeData m size a v) (a + 1) = v.extractLsb' 16 8 ∧
      peek (writeData m size a v) (a + 2) = v.extractLsb' 8 8 ∧ peek (writeData m size a v) (a + 3) = v.extractLsb' 0 8) ∧
    (size = .half → peek (writeData m size a v) a = v.extractLsb' 8 8 ∧
      peek (writeData m size a v) (a + 1) = v.extractLsb' 0 8) ∧
    (size = .byte → peek (writeData m size a v) a = v.extractLsb' 0 8) ∧
    readData m .byte a = (peek m a).zeroExtend 32 ∧ readData m .half a = (peek m a ++ peek m (a + 1)).zeroExtend 32 ∧
    readData m .word a = ((peek m a ++ peek m (a + 1)) ++ peek m (a + 2)) ++ peek m (a + 3)

/-- A halfword at an odd address and a word at an address that is no multiple of 4 end in a memory exception, without a
transaction; a byte never does for that reason (20_memory R82). That a misaligned access is a memory exception is
in part the spec's decision D3, log 6. Between two transactions of the CPU other bus masters may write: an access sees the
bytes they wrote before it, and only those (20_memory R101), and a reset request met there is taken before the access
(60_exceptions R514). -/
def Obligations.MisalignedAccessesFault : Prop :=
  (∀ (s : State) (st : Status) (e : Exn) (a v : Word),
    (a.toNat % 2 ≠ 0 → loadAs st .half e a s = .error (e, s) ∧ storeAs st .half e a v s = .error (e, s)) ∧
    (a.toNat % 4 ≠ 0 → loadAs st .word e a s = .error (e, s) ∧ storeAs st .word e a v s = .error (e, s)) ∧
    (Plain s → (memRead s st .byte a).isSome = true ∧
      (a.toNat % 2 = 0 → (memRead s st .half a).isSome = true) ∧
      (a.toNat % 4 = 0 → (memRead s st .word a).isSome = true))) ∧
  ∀ (s : State) (b : BusEvent) (rest : List BusEvent) (st : Status) (size : Size) (e : Exn) (a v : Word),
    s.bus = b :: rest → misaligned size a = false → s.virtualMode = false →
    let i := b.inputs.getD s.inputs
    let t := { s with bus := rest, mem := busWritten s.mem b.writes, inputs := i }
    (i.resetr = true → loadAs st size e a s = .error (.externalReset, t) ∧
      storeAs st size e a v s = .error (.externalReset, t)) ∧
    (i.resetr = false → i.replies = [] → loadAs st size e a s = .ok (readData t.mem size a, t) ∧
      storeAs st size e a v s = .ok { t with mem := writeData t.mem size a v })

/-- An instruction with an operand its role does not take, a constant as a destination, a constant or a register where
an address is needed, an expanded type where it is forbidden, register 11 in a memory mode, raises InvalidDescriptor
and changes nothing else (30_encoding R145, R146, R150). Register 11 and the order of the checks are the spec's
decisions D12 and D13, log 6. That SAVE and RESTORE too raise it for register 11 in a memory mode (descriptors 5B, 8B, 9B, AB,
BB, CB, DB), where R402 and U5 have their results indeterminate, is the model's choice, log 15. -/
def Obligations.BadOperandsRaiseInvalidDescriptor : Prop :=
  ∀ (i : Instr) (s : State), (∃ e ∈ i.operands, e.1.accepts e.2 = false) →
    exec i s = .next (fault .invalidDescriptor s)

/-- Outside kernel level an instruction whose destination is %psw, %pcbp or %isp raises PrivilegedRegister and changes
nothing else (10_state R26). That nothing else changes is the spec's decision D6; that the check comes before any operand is
read, so also where a source cannot be read or a divisor is 0, is its decision D12, log 6. -/
def Obligations.PrivilegedRegistersTrap : Prop :=
  ∀ (s : State) (r : Reg) (dst : Operand), isKernel s = false → r ∈ [.psw, .pcbp, .isp] → dst.mode = .register r →
    (∀ f ∈ [Instr.incb, .inch, .incw, .decb, .dech, .decw, .clrb, .clrh, .clrw],
      exec (f dst) s = .next (fault .privilegedRegister s)) ∧
    (dst.ty = none → exec (.popw dst) s = .next (fault .privilegedRegister s)) ∧
    (∀ f ∈ [Instr.movb, .movh, .movw, .mcomb, .mcomh, .mcomw, .mnegb, .mnegh, .mnegw, .addb2, .addh2, .addw2, .subb2,
        .subh2, .subw2, .mulb2, .mulh2, .mulw2, .divb2, .divh2, .divw2, .modb2, .modh2, .modw2, .andb2, .andh2, .andw2,
        .orb2, .orh2, .orw2, .xorb2, .xorh2, .xorw2],
      ∀ src : Operand, src.wellFormed .src = true → exec (f src dst) s = .next (fault .privilegedRegister s)) ∧
    (∀ f ∈ [Instr.movaw, .movtrw], ∀ src : Operand, src.wellFormed .addr = true →
      exec (f src dst) s = .next (fault .privilegedRegister s)) ∧
    (∀ f ∈ [Instr.addb3, .addh3, .addw3, .subb3, .subh3, .subw3, .mulb3, .mulh3, .mulw3, .divb3, .divh3, .divw3, .modb3,
        .modh3, .modw3, .andb3, .andh3, .andw3, .orb3, .orh3, .orw3, .xorb3, .xorh3, .xorw3, .alsw3, .arsb3, .arsh3,
        .arsw3, .llsb3, .llsh3, .llsw3, .lrsw3, .rotw],
      ∀ a b : Operand, a.wellFormed .src = true → b.wellFormed .src = true →
        exec (f a b dst) s = .next (fault .privilegedRegister s)) ∧
    ∀ f ∈ [Instr.extfb, .extfh, .extfw, .insfb, .insfh, .insfw],
      ∀ a b c : Operand, a.wellFormed .src = true → b.wellFormed .src = true → c.wellFormed .src = true →
        exec (f a b c dst) s = .next (fault .privilegedRegister s)

/-- Outside kernel level the six privileged instructions raise PrivilegedOpcode and change nothing else
(46_operating_system R470). -/
def Obligations.PrivilegedOpcodesTrap : Prop :=
  ∀ s : State, isKernel s = false →
    ∀ i ∈ [Instr.enbvjmp, .disvjmp, .callps, .retps, .wait, .intack], exec i s = .next (fault .privilegedOpcode s)

/-- Memory exceptions of the ordinary instructions (20_memory R80, R86, R95; 70_reset_and_hazards R615); those of the
returns, of RET, of the coprocessor instructions and of the gates and process switches are in their own statements. Operands
are read in order, and the first read that fails ends the instruction with its exception: ExternalMemory with nothing
changed where nothing happens on the bus, also for the pointer of a destination. A destination that cannot be written raises
ExternalMemory with the flags as if the instruction were completed, that is as the same instruction leaves them in a state
s' that differs in what the memory system answers, and nothing else changed; where the destination is not read, also as it
leaves them in the same state with %r0 as its destination, so for a misaligned one too (20_memory R82; one that is read
fails in its read). PUSHW and POPW set their flags too, and leave SP; BSBB, BSBH and JSB change nothing; CALL leaves the
word of AP stored; SAVE, whose word k is the first that cannot be stored, the words before it (FP, r[n] and up); RESTORE,
whose word k is the first that cannot be read, the registers of the words before it loaded; SWAPxI leaves memory and r0;
MOVBLW, STRCPY and STREND leave r0, r1, r2. V of a moved datum by the truncation test is the spec's decision D18, the order
of the checks its decision D12, what SAVE and RESTORE leave its decision D23, that r10 to r15 are no operand of theirs and
that a refused destination of POPW leaves SP its decision D21, log 6; that MOVTRW moves the memory word where nothing
translates is log 36. -/
def Obligations.MovesReportMemoryFaults : Prop :=
  (let fails := fun (i : Instr) (cur : OType) (sources : List Operand) (dst : Option (Operand × Bool)) (s : State) =>
     (∀ o ∈ sources, o.wellFormed .src = true) → (∀ d, dst = some d → d.1.wellFormed .dst = true ∧ Permitted d.1 s) →
     ∀ e t, operandReads cur sources dst s = .error (e, t) →
       exec i s = .next (fault e t) ∧ (s.bus = [] → e = .externalMemory ∧ t = s)
   (∀ e ∈ copyForms, ∀ a d s, fails (e.1 a d) e.2 [a] (some (d, false)) s) ∧
   (∀ e ∈ updateForms, ∀ a d s, fails (e.1 a d) e.2.1 [a] (some (d, true)) s) ∧
   (∀ e ∈ tripleForms, ∀ a b d s, fails (e.1 a b d) e.2.1 [a, b] (some (d, false)) s) ∧
   (∀ e ∈ unaryForms, ∀ d s, fails (e.1 d) e.2.1 [] (some (d, e.2.2)) s) ∧
   (∀ e ∈ fieldForms, ∀ a b c d s, fails (e.1 a b c d) e.2.1 [a, b, c] (some (d, e.2.2)) s) ∧
   (∀ e ∈ [(Instr.cmpb, OType.ubyte), (.cmph, .shalf), (.cmpw, .sword), (.bitb, .ubyte), (.bith, .shalf),
     (.bitw, .sword)], ∀ a b s, fails (e.1 a b) e.2 [a, b] none s) ∧
   ∀ e ∈ [(Instr.tstb, OType.ubyte), (.tsth, .shalf), (.tstw, .sword)], ∀ a s, fails (e.1 a) e.2 [a] none s) ∧
  (let refused := fun (i : Instr) (cur : OType) (divides : Bool) (sources : List Operand) (dst : Operand) (read : Bool)
       (s : State) =>
     ∀ (answers : List Reply) (vs : List Value) (a : Word),
       let s' := { s with inputs := { s.inputs with replies := answers } }
       let t := typeAfter cur (sources ++ [dst])
       s.Inv → s.bus = [] → (∀ o ∈ sources, o.wellFormed .src = true) → dst.wellFormed .dst = true → Permitted dst s →
       operandReads cur sources (some (dst, read)) s = .ok (vs, some (.memory a), s) →
       operandReads cur sources (some (dst, read)) s' = .ok (vs, some (.memory a), s') →
       (divides = true → ∀ v, vs.head? = some v → v.int ≠ 0) →
       (∀ x, writeReach s .write (typeSize t) a x = none) → Storable t (.memory a) s' →
       ∃ w w' o, exec i s' = .next (complete o w') ∧ exec i s = .next (fault .externalMemory w) ∧
         flags w = flags w' ∧ (w = s ∨ w = setFlags (flags w') s)
   (∀ e ∈ copyForms, ∀ a d s, refused (e.1 a d) e.2 false [a] d false s) ∧
   (∀ e ∈ updateForms, ∀ a d s, refused (e.1 a d) e.2.1 e.2.2 [a] d true s) ∧
   (∀ e ∈ tripleForms, ∀ a b d s, refused (e.1 a b d) e.2.1 e.2.2 [a, b] d false s) ∧
   (∀ e ∈ unaryForms, ∀ d s, refused (e.1 d) e.2.1 false [] d e.2.2 s) ∧
   ∀ e ∈ fieldForms, ∀ a b c d s, refused (e.1 a b c d) e.2.1 false [a, b, c] d e.2.2 s) ∧
  (let unwritten := fun (i : Operand → Instr) (cur : OType) (divides : Bool) (sources : List Operand) (dst : Operand)
       (s : State) =>
     ∀ (vs : List Value) (a : Word),
       s.Inv → s.bus = [] → (∀ o ∈ sources, o.wellFormed .src = true) → dst.wellFormed .dst = true →
       operandReads cur sources (some (dst, false)) s = .ok (vs, some (.memory a), s) →
       (divides = true → ∀ v, vs.head? = some v → v.int ≠ 0) →
       (∀ x, writeReach s .write (typeSize (typeAfter cur (sources ++ [dst]))) a x = none) →
       ∃ w w' o, exec (i { dst with mode := .register .r0 }) s = .next (complete o w') ∧
         exec (i dst) s = .next (fault .externalMemory w) ∧ flags w = flags w' ∧ (w = s ∨ w = setFlags (flags w') s)
   (∀ e ∈ copyForms, ∀ a d s, unwritten (e.1 a) e.2 false [a] d s) ∧
   (∀ e ∈ tripleForms, ∀ a b d s, unwritten (e.1 a b) e.2.1 e.2.2 [a, b] d s) ∧
   (∀ e ∈ unaryForms, e.2.2 = false → ∀ d s, unwritten e.1 e.2.1 false [] d s) ∧
   ∀ e ∈ fieldForms, e.2.2 = false → ∀ a b c d s, unwritten (e.1 a b c) e.2.1 false [a, b, c] d s) ∧
  (∀ (o : Operand) (s t : State) (e : Exn), effectiveAddress o.mode s = .error (e, t) →
    (∀ i ∈ [Instr.jsb, .pushaw, .swapbi, .swaphi, .swapwi], o.wellFormed .addrPlain = true →
      exec (i o) s = .next (fault e t)) ∧
    (o.wellFormed .addr = true → exec (.jmp o) s = .next (fault e t)) ∧
    (∀ i ∈ [Instr.movaw, .movtrw], ∀ d : Operand, o.wellFormed .addr = true → d.wellFormed .dst = true → Permitted d s →
      exec (i o d) s = .next (fault e t)) ∧
    (∀ d : Operand, o.wellFormed .addrPlain = true → d.wellFormed .addrPlain = true →
      exec (.call o d) s = .next (fault e t)) ∧
    ∀ (d : Operand) (a : Word), d.wellFormed .addrPlain = true → o.wellFormed .addrPlain = true →
      effectiveAddress d.mode s = .ok (a, s) → exec (.call d o) s = .next (fault e t)) ∧
  ∀ s : State, s.Inv → s.bus = [] →
    let faults := fun (i : Instr) => exec i s = .next (fault .externalMemory s)
    let flagged := fun (i : Instr) (k : Bool) (f : BitVec 4) =>
      exec i s = .next (fault .externalMemory (if k then s else setFlags f s))
    let wordFlagsOf := fun (x : Word) => packFlags (x.getLsbD 31) (decide (x = 0)) false false
    (∀ (src dst : Operand) (a : Word), AddressIs .addr src s a → dst.wellFormed .dst = true → Permitted dst s →
      let t := typeAt (typeAt .sword src) dst
      let unwritable := fun (b : Word) => resolve dst.mode s = .ok (.memory b, s) ∧
        ∀ x, writeReach s .write (typeSize t) b x = none
      (∀ e u, resolve dst.mode s = .error (e, u) → exec (.movaw src dst) s = .next (fault e u) ∧
        (memRead s .moveTranslated .word a ≠ none → exec (.movtrw src dst) s = .next (fault e u))) ∧
      (memRead s .moveTranslated .word a = none → faults (.movtrw src dst)) ∧
      ∀ b, unwritable b →
        flagged (.movaw src dst) false (packFlags (msbOf t a) (isZero t a) (!fits t (intOf t a)) false) ∧
        (∀ q, readReach s .moveTranslated .word a = some (.memory q) →
          flagged (.movtrw src dst) false (wordFlagsOf (if translating s then q else wordAt s q))) ∧
        ∀ v, readReach s .moveTranslated .word a = some (.device v) →
          flagged (.movtrw src dst) false (wordFlagsOf v)) ∧
    (∀ src : Operand, src.wellFormed .srcPlain = true →
      (∀ e t, readSource .sword src.mode s = .error (e, t) → exec (.pushw src) s = .next (fault e t)) ∧
      ∀ v, readSource .sword src.mode s = .ok (v, s) → writeReach s .write .word s.regs.sp v.bits = none →
        flagged (.pushw src) (readsPsw src) (wordFlagsOf v.bits)) ∧
    (∀ (src : Operand) (a : Word), AddressIs .addrPlain src s a →
      (writeReach s .write .word s.regs.sp a = none → flagged (.pushaw src) false (wordFlagsOf a)) ∧
      (writeReach s .write .word s.regs.sp (s.regs.pc + BitVec.ofNat 32 (encode (.jsb src)).length) = none →
        faults (.jsb src))) ∧
    (∀ d, writeReach s .write .word s.regs.sp (s.regs.pc + 2) = none → faults (.bsbb d)) ∧
    (∀ d, writeReach s .write .word s.regs.sp (s.regs.pc + 3) = none → faults (.bsbh d)) ∧
    (∀ dst : Operand, dst.wellFormed .dstPlain = true → Permitted dst s →
      (∀ e t, resolve dst.mode s = .error (e, t) → exec (.popw dst) s = .next (fault e t)) ∧
      ∀ p, resolve dst.mode s = .ok (p, s) →
        (memRead s .operandFetch .word (s.regs.sp - 4) = none → faults (.popw dst)) ∧
        ∀ a x, p = .memory a → memRead s .operandFetch .word (s.regs.sp - 4) = some x →
          writeReach s .write .word a x = none → flagged (.popw dst) false (wordFlagsOf x)) ∧
    (∀ (src dst : Operand) (a b : Word), AddressIs .addrPlain src s a → AddressIs .addrPlain dst s b →
      (writeReach s .write .word (s.regs.sp + 4) s.regs.ap = none → faults (.call src dst)) ∧
      ∀ q, writeReach s .write .word (s.regs.sp + 4) s.regs.ap = some q →
        writeReach s .write .word s.regs.sp (s.regs.pc + BitVec.ofNat 32 (encode (.call src dst)).length) = none →
        ∃ m, exec (.call src dst) s = .next (fault .externalMemory { s with mem := m }) ∧
          StoredAt .word q s.regs.ap s { s with mem := m }) ∧
    (∀ r : Reg, r.saveable = true →
      let n := r.num.toNat
      let words := s.regs.fp :: (List.range (9 - n)).map fun i => reg s (Reg.ofNum (r.num + BitVec.ofNat 4 i))
      let word := fun (j : Nat) => words.getD j 0
      let reach := fun (j : Nat) => writeReach s .write .word (s.regs.sp + BitVec.ofNat 32 (4 * j)) (word j)
      let saved := fun (j : Nat) => memRead s .operandFetch .word (s.regs.fp - 28 + BitVec.ofNat 32 (4 * j))
      (∀ (k : Nat) (qs : List Reached), k < 10 - n → qs.length = k → (∀ j, j < k → reach j = qs[j]?) → reach k = none →
        let m := landed s.mem words qs
        exec (.save { mode := .register r }) s = .next (fault .externalMemory { s with mem := m }) ∧
          (∀ x, (∀ a, .memory a ∈ qs → ¬covers .word a x) → peek m x = peek s.mem x) ∧
          ((∀ j, j < k → reach j = some (.memory (s.regs.sp + BitVec.ofNat 32 (4 * j)))) →
            ∀ j, j < k → readData m .word (s.regs.sp + BitVec.ofNat 32 (4 * j)) = word j)) ∧
      ∀ (k : Nat) (xs : List Word), k < 10 - n → xs.length = k → (∀ j, j < k → saved j = xs[j]?) → saved k = none →
        ∃ g, exec (.restore { mode := .register r }) s = .next (fault .externalMemory { s with regs := g }) ∧
          (∀ j, j + 1 < k → readReg (Reg.ofNum (r.num + BitVec.ofNat 4 j)) g = xs.getD (j + 1) 0) ∧
          ∀ r', (∀ j, j + 1 < k → r' ≠ Reg.ofNum (r.num + BitVec.ofNat 4 j)) → readReg r' g = reg s r') ∧
    (∀ e ∈ [(Instr.swapbi, OType.ubyte), (.swaphi, .shalf), (.swapwi, .sword)], ∀ (dst : Operand) (a : Word),
      AddressIs .addrPlain dst s a →
      (memRead s .interlocked (typeSize e.2) a = none → faults (e.1 dst)) ∧
      ∀ x, memRead s .interlocked (typeSize e.2) a = some x →
        writeReach s .interlocked (typeSize e.2) a s.regs.r0 = none →
        flagged (e.1 dst) false
          (packFlags (msbOf e.2 (extend e.2 x)) (isZero e.2 (extend e.2 x)) false false)) ∧
    (s.regs.r2 ≠ 0 → (memRead s .operandFetch .word s.regs.r0 = none ∨
      ∃ x, memRead s .operandFetch .word s.regs.r0 = some x ∧ writeReach s .write .word s.regs.r1 x = none) →
      faults .movblw) ∧
    ((memRead s .operandFetch .byte s.regs.r0 = none ∨
      ∃ x, memRead s .operandFetch .byte s.regs.r0 = some x ∧ writeReach s .write .byte s.regs.r1 x = none) →
      faults .strcpy) ∧
    (memRead s .operandFetch .byte s.regs.r0 = none → faults .strend)

/-! ## Exceptions and traps -/

/-- At the end of an instruction at most one trap is taken: the late overflow trap of the instruction before; else the
overflow trap of this one, now or one instruction late; else the trace trap, if TE and TM are set (60_exceptions R514,
R560; 70_reset_and_hazards R612; 92 D31, log 25). That the TE and TM tested are those of the PSW at the end of the
instruction is the spec's decision D29, log 6. After an explicit change of TE the trace trap is taken or not, once
(10_state R42, log 31). -/
def Obligations.CompletionTakesOneTrap : Prop :=
  ∀ s : State,
    let traced := pswTe s.regs.psw = true ∧ pswTm s.regs.psw = true
    let tested := { s with traceOpen := false }
    (s.pendingOverflow = true → ∀ o, complete o s = raise .integerOverflow { s with pendingOverflow := false }) ∧
    (s.pendingOverflow = false → s.traceOpen = false → ¬traced → complete false s = s) ∧
    (s.pendingOverflow = false → s.traceOpen = false → traced → complete false s = raise .trace s) ∧
    (s.pendingOverflow = false → s.traceOpen = true →
      complete false s = tested ∨ complete false s = raise .trace tested) ∧
    (s.pendingOverflow = false →
      complete true s = raise .integerOverflow s ∨
        ((s.traceOpen = false → ¬traced) ∧ complete true s = { tested with pendingOverflow := true }) ∨
        ((s.traceOpen = false → traced) ∧ complete true s = raise .trace { tested with pendingOverflow := true }))

/-- Taking a normal exception e (60_exceptions R502, R520): if SP is within the bounds of the PCB, the PC and the PSW
with e's code, TM 0 and ET 3 are pushed; the table at the address in word 0 gives the new PSW (entry 8 * code, taken as
GATE takes it) and the new PC; SP is 8 more; no other register and no other byte changes. For three faults the pushed
flags are any value (R511, log 20). That an overflow trap leaves OE as it is in the pushed PSW is the spec's decision D7, and
its decisions D15 and D26 settle the flags and the bounds, log 6. That the flags are settled for a read of %psw behind the
entry is log 24, that the new PSW keeps IPL and R (90_conflicts C72) log 7. What a memory exception in the sequence raises
(46_operating_system R482): GatePcb for the bounds, StackFault for the pushes, with SP and PC as before, ResetGateVector
for the table and its entry. -/
def Obligations.NormalExceptionEntry : Prop :=
  (∀ (e : Exn) (s : State) (f : BitVec 4), e.severity = .normal → s.mem.wf = true →
    s.regs.psw &&& 0xFC000000 = 0 → Plain s → Aligned s.regs.pcbp → Aligned s.regs.sp →
    wordAt s (s.regs.pcbp + 12) ≤ s.regs.sp → s.regs.sp < wordAt s (s.regs.pcbp + 16) →
    f = (if e.scramblesFlags then Config.faultFlags s.free else flags s) →
    let saved := ((s.regs.psw &&& 0x03C3FF80) ||| (f.zeroExtend 32 <<< 18)) ||| (e.code.zeroExtend 32 <<< 3) ||| 3
    let m := { s with mem := writeData (writeData s.mem .word s.regs.sp s.regs.pc) .word (s.regs.sp + 4) saved }
    let entry := wordAt m 0 + (e.code.zeroExtend 32 <<< 3)
    Aligned (wordAt m 0) →
    ∃ w, raise e s = w ∧ WordsAt s.regs.sp [s.regs.pc, saved] s w ∧ GoesTo (wordAt m (entry + 4)) s w ∧
      w.regs.psw = gatePsw s.regs.psw (wordAt m entry) ∧ w.regs.sp = s.regs.sp + 8 ∧
      OnlyRegs [.pc, .psw, .sp] s w ∧
      SameMachine { s with phase := .running, kernelForced := false, flagsAtStart := flags w } w) ∧
  ∀ (e : Exn) (s : State), e.severity = .normal → s.bus = [] →
    let k := forceKernel true (enterNormal e s)
    let u := forceKernel false (enterNormal e s)
    let saved := (setCodes e.code false 3 u).regs.psw
    let raises := fun (x : Exn) => ∃ t, raise e s = raise x t ∧ t.regs.sp = s.regs.sp ∧ t.regs.pc = s.regs.pc
    (Unreadable k (pcbWord s 3) ∨ Unreadable k (pcbWord s 4) → raise e s = raise .gatePcb k) ∧
    ∀ lo hi, memRead k .operandFetch .word (pcbWord s 3) = some lo → memRead k .operandFetch .word (pcbWord s 4) = some hi →
      lo ≤ s.regs.sp → s.regs.sp < hi →
      (Unwritable u s.regs.sp → raise e s = raise .stackFault u) ∧
      (Writable u s.regs.sp → Unwritable u (s.regs.sp + 4) → raises .stackFault) ∧
      (Writable u s.regs.sp → Writable u (s.regs.sp + 4) → Unreadable k 0 → raises .resetGateVector) ∧
      ∀ q1 q2 p, writeReach u .write .word s.regs.sp s.regs.pc = some q1 →
        writeReach u .write .word (s.regs.sp + 4) saved = some q2 → readReach k .operandFetch .word 0 = some p →
        let m := deposited (deposited s.mem .word q1 s.regs.pc) .word q2 saved
        let entry := received m .word p + (e.code.zeroExtend 32 <<< 3)
        Unreadable k entry ∨ Unreadable k (entry + 4) → ∃ t, raise e s = raise .resetGateVector t

/-- A normal exception with SP outside the bounds of the PCB ripples up to the stack exception StackBound, nothing
pushed (60_exceptions R506, R513, R520). The comparison is unsigned by the spec's decision D26, log 6. Taking a stack
exception (R521): the PCBP is pushed on the interrupt stack; the PC, the PSW with e's code, ET 2 and the R of the new image,
and SP are saved in the current PCB, with AP, FP and r0 to r8 where that R is set (46_operating_system R476); PSW, PC and SP
come from the PCB whose address is at 0x88; ISC 7, TM 0, ET 3. No block is moved. What is read is clear of what is
saved; the stack bounds in the PCB stay. That the flags are settled for a read of %psw behind the entry is log 24. What a
memory exception raises (R482): SystemData for the word at 0x88, InterruptStack for the push, OldPcb for the saves, NewPcb
for the new PCB. -/
def Obligations.StackBoundRipples : Prop :=
  (∀ (e : Exn) (s : State), e.severity = .normal → Plain s → Aligned s.regs.pcbp →
    (s.regs.sp < wordAt s (s.regs.pcbp + 12) ∨ wordAt s (s.regs.pcbp + 16) ≤ s.regs.sp) →
    raise e s = raise .stackBound (forceKernel true (enterNormal e s)) ∧
      SameMemory s (forceKernel true (enterNormal e s)) ∧ OnlyRegs [.psw] s (forceKernel true (enterNormal e s))) ∧
  (∀ (e : Exn) (s : State), e.severity = .stack → s.mem.wf = true → s.regs.psw &&& 0xFC000000 = 0 →
    Plain s → Aligned s.regs.isp → Aligned s.regs.pcbp →
    let a := wordAt s 0x88
    let image := wordAt s a
    let saved := (s.regs.psw &&& 0x03FFFE84) ||| (image &&& 0x00000100) ||| (e.code.zeroExtend 32 <<< 3) ||| 2
    let n := if pswR image then 64 else 12
    Aligned a → (∀ x ∈ [a, a + 4, a + 8], x ≠ s.regs.isp ∧ ¬(x - s.regs.pcbp).toNat < n) →
    ¬(s.regs.isp - s.regs.pcbp).toNat < n →
    ∃ w, raise e s = w ∧ wordAt w s.regs.isp = s.regs.pcbp ∧ wordAt w s.regs.pcbp = saved ∧
      wordAt w (s.regs.pcbp + 4) = s.regs.pc ∧ wordAt w (s.regs.pcbp + 8) = s.regs.sp ∧
      (∀ x, ¬(x - s.regs.isp).toNat < 4 → ¬(x - s.regs.pcbp).toNat < 12 →
        ¬(20 ≤ (x - s.regs.pcbp).toNat ∧ (x - s.regs.pcbp).toNat < n) → peek w.mem x = peek s.mem x) ∧
      w.regs.psw = processPsw (pswR image) 0x3B image ∧ w.regs.pc = wordAt s (a + 4) ∧ w.regs.sp = wordAt s (a + 8) ∧
      w.regs.pcbp = processPcbp a image ∧ w.regs.isp = s.regs.isp + 4 ∧
      OnlyRegs ([.psw, .pc, .sp, .pcbp, .isp] ++ if pswR image then [.fp] else []) s w ∧ Flushed image s w ∧
      w.discont = true ∧ w.iqueue = [] ∧
      (pswR image = true → w.regs.fp = s.regs.pcbp + 52 ∧ wordAt w (s.regs.pcbp + 20) = s.regs.ap ∧
        wordAt w (s.regs.pcbp + 24) = s.regs.fp ∧
        ∀ k, k < 9 → wordAt w (s.regs.pcbp + 28 + BitVec.ofNat 32 (4 * k)) = reg s (Reg.ofNum (BitVec.ofNat 4 k))) ∧
      SameMachine { s with phase := .running, kernelForced := false, flagsAtStart := flags w } w) ∧
  ∀ (e : Exn) (s : State), e.severity = .stack → s.bus = [] →
    let k := forceKernel true (recordCause e s)
    (Unreadable k 0x88 → raise e s = raise .systemData k) ∧
    ∀ a, memRead k .operandFetch .word 0x88 = some a →
      (Unwritable k s.regs.isp → raise e s = raise .interruptStack k) ∧
      (Writable k s.regs.isp → ContextRefused a k → ∃ t, raise e s = raise .oldPcb t) ∧
      (Writable k s.regs.isp → ContextGranted a k → ContextUnreadable a k → ∃ t, raise e s = raise .newPcb t)

/-- Taking a process exception (60_exceptions R522): the PCBP is pushed on the interrupt stack, and PCBP, PSW, PC and SP
come from the PCB whose address is at 0x84; R stays, ISC is the code, TM 0, ET 3. The new PCB is clear of the push. What a memory exception
raises (46_operating_system R482): SystemData for the word at 0x84, InterruptStack for the push, ResetNewPcb for the PCB.
That the flags are settled for a read of %psw behind the entry is log 24. -/
def Obligations.ProcessExceptionEntry : Prop :=
  (∀ (e : Exn) (s : State), e.severity = .process → s.mem.wf = true → s.regs.psw &&& 0xFC000000 = 0 →
    Plain s → Aligned s.regs.isp →
    let a := wordAt s 0x84
    let image := wordAt s a
    Aligned a → s.regs.isp ≠ a → s.regs.isp ≠ a + 4 → s.regs.isp ≠ a + 8 →
    ∃ w, raise e s = w ∧ WordsAt s.regs.isp [s.regs.pcbp] s w ∧
      w.regs.psw = processPsw (pswR s.regs.psw) ((e.code.zeroExtend 32 <<< 3) ||| 3) image ∧
      w.regs.pc = wordAt s (a + 4) ∧ w.regs.sp = wordAt s (a + 8) ∧ w.regs.pcbp = processPcbp a image ∧
      w.regs.isp = s.regs.isp + 4 ∧ OnlyRegs [.psw, .pc, .sp, .pcbp, .isp] s w ∧ Flushed image s w ∧
      w.discont = true ∧ w.iqueue = [] ∧
      SameMachine { s with phase := .running, kernelForced := false, flagsAtStart := flags w } w) ∧
  ∀ (e : Exn) (s : State), e.severity = .process → s.bus = [] →
    let k := forceKernel true (recordCause e s)
    (Unreadable k 0x84 → raise e s = raise .systemData k) ∧
    ∀ a, memRead k .operandFetch .word 0x84 = some a →
      (Unwritable k s.regs.isp → raise e s = raise .interruptStack k) ∧
      (Writable k s.regs.isp → ContextUnreadable a k → ∃ t, raise e s = raise .resetNewPcb t)

/-- The context save of a process switch, XSWITCH_ONE (46_operating_system R476), called with kernel level forced: PC goes
to the PCB; R comes from the image at t, as it then is; the PSW and SP go to the PCB; with R set, AP, FP and r0 to r8 go too
and FP becomes PCBP + 52. No other byte changes, the stack bounds neither. Every memory exception raises the exception
of the caller. -/
def Obligations.ContextSave : Prop :=
  (∀ (s : State) (t : Word) (e : Exn), s.mem.wf = true → s.regs.psw &&& 0xFC000000 = 0 → Plain s →
    Aligned s.regs.pcbp → Aligned t →
    let image := wordAt { s with mem := writeData s.mem .word (s.regs.pcbp + 4) s.regs.pc } t
    let psw := (s.regs.psw &&& 0x03FFFEFF) ||| (image &&& 0x00000100)
    ∃ w, xswitchOne t e s = .ok w ∧ SameMachine s w ∧ w.discont = s.discont ∧ w.icache = s.icache ∧
      w.iqueue = s.iqueue ∧ w.cacheCorrupt = s.cacheCorrupt ∧ w.regs.psw = psw ∧ wordAt w s.regs.pcbp = psw ∧
      wordAt w (s.regs.pcbp + 4) = s.regs.pc ∧ wordAt w (s.regs.pcbp + 8) = s.regs.sp ∧
      (pswR image = false → OnlyRegs [.psw] s w ∧ ∀ x, ¬(x - s.regs.pcbp).toNat < 12 → peek w.mem x = peek s.mem x) ∧
      (pswR image = true → OnlyRegs [.psw, .fp] s w ∧ w.regs.fp = s.regs.pcbp + 52 ∧
        wordAt w (s.regs.pcbp + 20) = s.regs.ap ∧ wordAt w (s.regs.pcbp + 24) = s.regs.fp ∧
        (∀ k, k < 9 → wordAt w (s.regs.pcbp + 28 + BitVec.ofNat 32 (4 * k)) = reg s (Reg.ofNum (BitVec.ofNat 4 k))) ∧
        ∀ x, ¬(x - s.regs.pcbp).toNat < 12 → ¬(20 ≤ (x - s.regs.pcbp).toNat ∧ (x - s.regs.pcbp).toNat < 64) →
          peek w.mem x = peek s.mem x)) ∧
  ∀ (s : State) (t : Word) (e : Exn), s.bus = [] → s.kernelForced = true →
    (∀ x u, xswitchOne t e s = .error (x, u) → x = e) ∧
    (ContextRefused t s → ∃ u, xswitchOne t e s = .error (e, u)) ∧
    (ContextGranted t s → ∃ w, xswitchOne t e s = .ok w) ∧
    ∀ q p, writeReach s .write .word (pcbWord s 1) s.regs.pc = some q → readReach s .operandFetch .word t = some p →
      pswR (received (deposited s.mem .word q s.regs.pc) .word p) = true →
      (∃ k ∈ registerPlaces, Unwritable s (pcbWord s k)) → ∃ u, xswitchOne t e s = .error (e, u)

/-- The quick interrupt (60_exceptions R532, R534): with QIE set, whether the ID is 0 for the nonmaskable request, the level
with AVEC, or the byte a device drives, the PC and the PSW with ISC 1, TM 0, ET 2 are pushed; the entry at 0x48C + 8 * ID gives the PC and the PSW, with PM from the old
CM, IPL 15, the old R and ISC 7, TM 1, ET 3. No bound is checked. A late overflow trap stays pending
(log 25), and the flags are settled for a read of %psw behind the entry (log 24). What a memory exception raises
(46_operating_system R482; 20_memory R114): InterruptIdFetch for the acknowledge, StackFault for the pushes, GateVector for
the entry, SP as before. -/
def Obligations.QuickInterruptEntry : Prop :=
  (∀ (s : State), s.Inv → Plain s → Aligned s.regs.sp → pswQie s.regs.psw = true →
    let level := ~~~s.inputs.ipl
    let id : Word := if s.inputs.nmint then 0
      else if s.inputs.avec then ((if s.inputs.intopt then 0 else 16) ||| level.zeroExtend 32)
      else s.inputs.intId.zeroExtend 32
    let saved := (s.regs.psw &&& 0x03FFFF80) ||| 0x0A
    let m := { s with mem := writeData (writeData s.mem .word s.regs.sp s.regs.pc) .word (s.regs.sp + 4) saved }
    let entry := 0x48C + id * 8
    ∃ w, takeInterrupt s = w ∧ WordsAt s.regs.sp [s.regs.pc, saved] s w ∧ GoesTo (wordAt m (entry + 4)) s w ∧
      w.regs.psw = gatePsw s.regs.psw (wordAt m entry) ||| 0x0001E000 ∧ w.regs.sp = s.regs.sp + 8 ∧
      OnlyRegs [.pc, .psw, .sp] s w ∧
      SameMachine { s with phase := .running, kernelForced := false, flagsAtStart := flags w } w) ∧
  ∀ (s : State), s.bus = [] →
    let u := { s with phase := .running }
    (s.inputs.nmint = false → s.inputs.avec = false →
      reply s .interruptAck .byte .read (acknowledgeAddress s) 0 = some .fault →
      takeInterrupt s = raise .interruptIdFetch u) ∧
    ∀ id, interruptId u = .ok (id, u) → pswQie s.regs.psw = true →
      let raises := fun (x : Exn) => ∃ t, takeInterrupt s = raise x t ∧ t.regs.sp = s.regs.sp
      (Unwritable u s.regs.sp → takeInterrupt s = raise .stackFault u) ∧
      (Writable u s.regs.sp → Unwritable u (s.regs.sp + 4) → raises .stackFault) ∧
      (Writable u s.regs.sp → Writable u (s.regs.sp + 4) →
        Unreadable (forceKernel true u) (0x48C + id * 8) ∨ Unreadable (forceKernel true u) (0x48C + id * 8 + 4) →
        raises .gateVector)

/-- The full interrupt (60_exceptions R532, R533): the PCBP is pushed on the interrupt stack, PC, PSW (ISC 0, TM 0, ET 1,
R of the handler's image) and SP are saved in the current PCB, and the handler's PCB, from the table at 0x8C, gives the new
ones. With R clear in the image the interrupt is taken; with R set AP, FP and r0 to r8 are saved too, FP becomes the old
PCBP + 52, and the block moves begin, r0 and r2 at the first block (that they are steps of their own is log 17). What is
read is clear of what is saved; the stack bounds in the PCB stay. A late overflow trap stays pending (log 25), and the flags
are settled for a read of %psw behind the entry (log 24). What a memory exception raises (46_operating_system R482):
SystemData for the table at 0x8C, InterruptStack for the push, OldPcb for the saves, NewPcb for the new PCB. -/
def Obligations.FullInterruptEntry : Prop :=
  (∀ (s : State), s.Inv → Plain s → Aligned s.regs.isp → Aligned s.regs.pcbp → pswQie s.regs.psw = false →
    let level := ~~~s.inputs.ipl
    let id : Word := if s.inputs.nmint then 0
      else if s.inputs.avec then ((if s.inputs.intopt then 0 else 16) ||| level.zeroExtend 32)
      else s.inputs.intId.zeroExtend 32
    let a := wordAt s (0x8C + id * 4)
    let image := wordAt s a
    let saved := (s.regs.psw &&& 0x03FFFE80) ||| (image &&& 0x00000100) ||| 1
    let switched := fun (n : Nat) (rs : List Reg) (w : State) =>
      wordAt w s.regs.isp = s.regs.pcbp ∧ wordAt w s.regs.pcbp = saved ∧
        wordAt w (s.regs.pcbp + 4) = s.regs.pc ∧ wordAt w (s.regs.pcbp + 8) = s.regs.sp ∧
        (∀ x, ¬(x - s.regs.isp).toNat < 4 → ¬(x - s.regs.pcbp).toNat < 12 →
        ¬(20 ≤ (x - s.regs.pcbp).toNat ∧ (x - s.regs.pcbp).toNat < n) → peek w.mem x = peek s.mem x) ∧
        w.regs.psw = processPsw (pswR image) 0x3B image ∧ w.regs.pc = wordAt s (a + 4) ∧
        w.regs.sp = wordAt s (a + 8) ∧ w.regs.pcbp = processPcbp a image ∧ w.regs.isp = s.regs.isp + 4 ∧
        OnlyRegs ([.psw, .pc, .sp, .pcbp, .isp] ++ rs) s w ∧ Flushed image s w
    Aligned a →
    (pswR image = false →
      (∀ x ∈ [s.regs.isp, s.regs.pcbp, s.regs.pcbp + 4, s.regs.pcbp + 8], x ∉ [a, a + 4, a + 8]) →
      s.regs.isp ∉ [s.regs.pcbp, s.regs.pcbp + 4, s.regs.pcbp + 8] →
      ∃ w, takeInterrupt s = w ∧ switched 12 [] w ∧
        SameMachine { s with phase := .running, kernelForced := false, flagsAtStart := flags w } w) ∧
    (pswR image = true →
      (∀ x ∈ [a, a + 4, a + 8, processPcbp a image + 64], x ≠ s.regs.isp ∧ ¬(x - s.regs.pcbp).toNat < 64) →
      ¬(s.regs.isp - s.regs.pcbp).toNat < 64 →
      ∃ w, takeInterrupt s = w ∧ switched 64 [.fp, .r0, .r2] w ∧
        wordAt w (s.regs.pcbp + 20) = s.regs.ap ∧ wordAt w (s.regs.pcbp + 24) = s.regs.fp ∧
        (∀ k, k < 9 → wordAt w (s.regs.pcbp + 28 + BitVec.ofNat 32 (4 * k)) = reg s (Reg.ofNum (BitVec.ofNat 4 k))) ∧
        w.regs.fp = s.regs.pcbp + 52 ∧ w.regs.r0 = processPcbp a image + 68 ∧
        w.regs.r2 = wordAt s (processPcbp a image + 64) ∧
        SameMachine { s with phase := .blockMoves .interrupt false, kernelForced := true } w)) ∧
  ∀ (s : State), s.bus = [] →
    let u := { s with phase := .running }
    let k := forceKernel true u
    ∀ id, interruptId u = .ok (id, u) → pswQie s.regs.psw = false →
      (Unreadable k (0x8C + id * 4) → takeInterrupt s = raise .systemData k) ∧
      ∀ a, memRead k .operandFetch .word (0x8C + id * 4) = some a →
        (Unwritable k s.regs.isp → takeInterrupt s = raise .interruptStack k) ∧
        (Writable k s.regs.isp → ContextRefused a k → ∃ t, takeInterrupt s = raise .oldPcb t) ∧
        (Writable k s.regs.isp → ContextGranted a k → ContextUnreadable a k → ∃ t, takeInterrupt s = raise .newPcb t)

/-! ## Data transfer -/

/-- MOVx and MCOMx (40_data_transfer R200 case 1, R202 to R204, R207 to R209): the source, or its complement, goes to the
destination; N and Z are those of the destination's size, V says that it does not fit, C is 0. V by the truncation test in
every case is the spec's decision D18, and that V takes no overflow trap its decision D17, log 6; that a %psw destination
takes its flags from the value also where a source is %psw is log 44. -/
def Obligations.MoveResult : Prop :=
  ∀ e ∈ [(Instr.movb, OType.ubyte, false), (.movh, .shalf, false), (.movw, .sword, false), (.mcomb, .ubyte, true),
      (.mcomh, .shalf, true), (.mcomw, .sword, true)],
    ∀ (src dst : Operand) (s : State) (ts t : OType) (v : Value) (p : Place),
      s.Inv → SourceIs e.2.1 src s ts v → DestIs ts dst s t p →
      let x := if e.2.2 then ~~~v.bits else v.bits
      ∃ w, exec (e.1 src dst) s = .next (complete false w) ∧
        Wrote t p x (keepsFlags [src] p) (packFlags (msbOf t x) (isZero t x) (!fits t (intOf t x)) false)
          (encode (e.1 src dst)).length s w

/-- MNEGx (40_data_transfer R210 to R212; 41_arithmetic R240, R242, R243): the exact negation; C is the borrow from 0; no
overflow trap. The absence of a trap is the spec's decision D17, log 6; that N and Z are those of the exact result, not of
the truncated one, is its resolution of 90_conflicts C38, log 7; that a %psw destination takes its flags from the value also
where a source is %psw is log 44. -/
def Obligations.NegateResult : Prop :=
  ∀ e ∈ [(Instr.mnegb, OType.ubyte), (.mnegh, .shalf), (.mnegw, .sword)],
    ∀ (src dst : Operand) (s : State) (ts t : OType) (v : Value) (p : Place),
      s.Inv → SourceIs e.2 src s ts v → DestIs ts dst s t p →
      let i := -v.int
      ∃ w, exec (e.1 src dst) s = .next (complete false w) ∧
        Wrote t p (BitVec.ofInt 32 i) (keepsFlags [src] p)
          (packFlags (decide (i < 0)) (decide (i = 0)) (!fits t i) (decide (0 < v.bits.toNat % 2 ^ typeBits t)))
          (encode (e.1 src dst)).length s w

/-- MOVAW moves the effective address of its source, which is not read (40_data_transfer R206). MOVTRW moves the
physical address of its source where an MMU translates; its flags are those of the word returned (46_operating_system
R488). That it moves the memory word where nothing translates is log 36. MOVAW's V by the truncation test is the spec's
decision D18, and that V takes no overflow trap its decision D17, log 6. -/
def Obligations.AddressMoves : Prop :=
  (∀ (src dst : Operand) (s : State) (t : OType) (a : Word) (p : Place),
     s.Inv → AddressIs .addr src s a → DestIs (typeAt .sword src) dst s t p →
     ∃ w, exec (.movaw src dst) s = .next (complete false w) ∧
       Wrote t p a (keepsFlags [] p) (packFlags (msbOf t a) (isZero t a) (!fits t (intOf t a)) false)
         (encode (.movaw src dst)).length s w) ∧
  ∀ (src dst : Operand) (s : State) (t : OType) (a x : Word) (q : Reached) (p : Place),
    s.Inv → s.bus = [] → AddressIs .addr src s a → DestIs (typeAt .sword src) dst s t p →
    readReach s .moveTranslated .word a = some q →
    x = (match q with
      | .memory b => if translating s then b else readData s.mem .word b
      | .device v => v) →
    ∃ w, exec (.movtrw src dst) s = .next (complete false w) ∧
      Wrote t p x (keepsFlags [] p) (packFlags (x.getLsbD 31) (decide (x = 0)) false false)
        (encode (.movtrw src dst)).length s w

/-- SWAPxI exchanges r0 and memory (40_data_transfer R214 to R216): r0 takes the datum extended by the type, memory the
low bits of r0; N and Z are those of the datum read. Nothing comes between its read and its write (20_memory R100): of what
is to happen on the bus only the first entry takes its turn, before the read, and the write finds memory as the read did;
the others are still to come when the instruction is over, and so is any interrupt. -/
def Obligations.SwapResult : Prop :=
  (∀ e ∈ [(Instr.swapbi, OType.ubyte), (.swaphi, .shalf), (.swapwi, .sword)],
    ∀ (dst : Operand) (s : State) (a x : Word) (q : Reached),
      s.Inv → s.bus = [] → AddressIs .addrPlain dst s a → memRead s .interlocked (typeSize e.2) a = some x →
      writeReach s .interlocked (typeSize e.2) a s.regs.r0 = some q →
      let v := extend e.2 x
      ∃ w, exec (e.1 dst) s = .next (complete false w) ∧ SameMachine s w ∧ GoesOn (encode (e.1 dst)).length s w ∧
        RegsBut [.r0] s w ∧ w.regs.r0 = v ∧ StoredAt (typeSize e.2) q s.regs.r0 s w ∧
        FlagsAre false (packFlags (msbOf e.2 v) (isZero e.2 v) false false) s w) ∧
  ∀ e ∈ [(Instr.swapbi, OType.ubyte), (.swaphi, .shalf), (.swapwi, .sword)],
    ∀ (dst : Operand) (s : State) (b : BusEvent) (rest : List BusEvent) (a x : Word) (q : Reached),
      let t := { s with bus := rest, mem := busWritten s.mem b.writes, inputs := b.inputs.getD s.inputs }
      s.Inv → s.bus = b :: rest → t.inputs.resetr = false → AddressIs .addrPlain dst s a →
      memRead t .interlocked (typeSize e.2) a = some x →
      writeReach t .interlocked (typeSize e.2) a s.regs.r0 = some q →
      let v := extend e.2 x
      ∃ w, exec (e.1 dst) s = .next (complete false w) ∧ SameMachine t w ∧ GoesOn (encode (e.1 dst)).length s w ∧
        RegsBut [.r0] s w ∧ w.regs.r0 = v ∧ StoredAt (typeSize e.2) q s.regs.r0 t w ∧
        FlagsAre false (packFlags (msbOf e.2 v) (isZero e.2 v) false false) s w

/-- MOVBLW: with r2 = 0 it ends; else it copies one word from r0 to r1, moves r0 and r1 up by 4 and r2 down by 1, and is
between two iterations (40_data_transfer R217, R218). STRCPY copies the byte at r0 to r1; after a null byte it ends with
r0 and r1 at the null bytes, else they move up by 1 (R219). STREND only reads, and moves r0 (R220). -/
def Obligations.BlockAndStringIterations : Prop :=
  (∀ (s : State), s.Inv →
     (s.regs.r2 = 0 → ∃ w, exec .movblw s = .next (complete false w) ∧ Advances [] 2 { s with phase := .running } w) ∧
     ∀ (x : Word) (q : Reached), s.regs.r2 ≠ 0 → s.bus = [] → memRead s .operandFetch .word s.regs.r0 = some x →
       writeReach s .write .word s.regs.r1 x = some q →
       ∃ w, exec .movblw s = .next w ∧ Iterates .movblw [.r0, .r1, .r2] s w ∧ w.regs.r0 = s.regs.r0 + 4 ∧
         w.regs.r1 = s.regs.r1 + 4 ∧ w.regs.r2 = s.regs.r2 - 1 ∧ StoredAt .word q x s w) ∧
  ∀ (s : State) (b : Word), s.Inv → s.bus = [] → memRead s .operandFetch .byte s.regs.r0 = some b →
    (∀ q, writeReach s .write .byte s.regs.r1 b = some q → b = 0 →
      ∃ w, exec .strcpy s = .next (complete false w) ∧ SameMachine { s with phase := .running } w ∧ GoesOn 2 s w ∧
        RegsBut [] s w ∧ SamePsw s w ∧ StoredAt .byte q 0 s w) ∧
    (∀ q, writeReach s .write .byte s.regs.r1 b = some q → b ≠ 0 →
      ∃ w, exec .strcpy s = .next w ∧ Iterates .strcpy [.r0, .r1] s w ∧ w.regs.r0 = s.regs.r0 + 1 ∧
        w.regs.r1 = s.regs.r1 + 1 ∧ StoredAt .byte q b s w) ∧
    (b = 0 → ∃ w, exec .strend s = .next (complete false w) ∧ Advances [] 2 { s with phase := .running } w) ∧
    (b ≠ 0 → ∃ w, exec .strend s = .next w ∧ Iterates .strend [.r0] s w ∧ w.regs.r0 = s.regs.r0 + 1 ∧ SameMemory s w)

/-- EXTFx (40_data_transfer R221 to R224): the field of width + 1 bits from bit offset, wrapping, right-adjusted; V says
that the field is wider than the destination. INSFx (R225 to R227): the low width + 1 bits of the source replace the field
at offset of the destination; V says that the field reaches beyond a byte or halfword destination. Only the five low bits of
width and offset count. That V compares the sizes of field and destination, not values, is the spec's own reading of the
manual's notes (R222, R225, 91_not_in_source), log 42; that N of INSFB and INSFH is the bit at the destination's size, not
bit 31, is 90_conflicts C40, log 7; that they write all 32 bits of a register is log 14; that V takes no overflow trap is
the spec's decision D17, log 6; that a %psw destination takes its flags from the value also where a source is %psw is log
44. -/
def Obligations.BitFieldResult : Prop :=
  (∀ e ∈ [(Instr.extfb, OType.ubyte), (.extfh, .shalf), (.extfw, .sword)],
     ∀ (width offset src dst : Operand) (s : State) (t1 t2 t3 t : OType) (wv ov v : Value) (p : Place),
       s.Inv → SourceIs e.2 width s t1 wv → SourceIs t1 offset s t2 ov → SourceIs t2 src s t3 v → DestIs t3 dst s t p →
       let n := wv.bits.toNat % 32
       let o := ov.bits.toNat % 32
       let x := v.bits.rotateRight o &&& BitVec.ofNat 32 (2 ^ (n + 1) - 1)
       ∃ w, exec (e.1 width offset src dst) s = .next (complete false w) ∧
         Wrote t p x (keepsFlags [width, offset, src] p)
           (packFlags (msbOf t x) (isZero t x) (decide (typeBits t < n + 1)) false)
           (encode (e.1 width offset src dst)).length s w) ∧
  ∀ e ∈ [(Instr.insfb, OType.ubyte), (.insfh, .shalf), (.insfw, .sword)],
    ∀ (width offset src dst : Operand) (s : State) (t1 t2 t3 t : OType) (wv ov v d : Value) (p : Place),
      s.Inv → SourceIs e.2 width s t1 wv → SourceIs t1 offset s t2 ov → SourceIs t2 src s t3 v → DestIs t3 dst s t p →
      readPlace t p s = .ok (d, s) →
      let n := wv.bits.toNat % 32
      let o := ov.bits.toNat % 32
      let mask := BitVec.ofNat 32 (2 ^ (n + 1) - 1)
      let x := (d.bits &&& ~~~mask.rotateLeft o) ||| (v.bits &&& mask).rotateLeft o
      ∃ w, exec (e.1 width offset src dst) s = .next (complete false w) ∧
        Wrote t p x (keepsFlags [width, offset, src] p)
          (packFlags (msbOf t x) (isZero t x) (decide (typeBits t < 32 ∧ typeBits t < o + n + 1)) false)
          (encode (e.1 width offset src dst)).length s w

/-! ## Arithmetic -/

/-- ADD and SUB (41_arithmetic R240 to R245, R248, R250 to R261): the exact dst + src, dst - src, src2 + src1 or src2 -
src1, cut to 32 bits; N and Z of the exact result, V if it does not fit, C the carry or borrow at the destination's size;
the overflow trap if V and OE. Mixed types and the list of trapping instructions by the spec's decisions D16, D17 and D19,
log 6. No trap is taken where a source is %psw, so that the instruction does not set V (30_encoding R152), unless the
destination is %psw too, where R244 tests the fit alone: log 40. That the OE tested is that of before the write, where the
destination is %psw, is log 40; that such a destination takes its flags from the value also where a source is %psw is log
44. -/
def Obligations.AddSubtractResult : Prop :=
  (∀ e ∈ [(Instr.addb2, OType.ubyte, false), (.addh2, .shalf, false), (.addw2, .sword, false), (.subb2, .ubyte, true),
       (.subh2, .shalf, true), (.subw2, .sword, true)],
     ∀ (src dst : Operand) (s : State) (ts t : OType) (v d : Value) (p : Place),
       s.Inv → SourceIs e.2.1 src s ts v → DestIs ts dst s t p → readPlace t p s = .ok (d, s) →
       let i := if e.2.2 then d.int - v.int else d.int + v.int
       let x := d.bits.toNat % 2 ^ typeBits t
       let y := v.bits.toNat % 2 ^ typeBits t
       let c := if e.2.2 then decide (x < y) else decide (2 ^ typeBits t ≤ x + y)
       ∃ w, exec (e.1 src dst) s = .next (complete (!fits t i && tellsOverflow [src] p && pswOe s.regs.psw) w) ∧
         Wrote t p (BitVec.ofInt 32 i) (keepsFlags [src] p)
           (packFlags (decide (i < 0)) (decide (i = 0)) (!fits t i) c) (encode (e.1 src dst)).length s w) ∧
  ∀ e ∈ [(Instr.addb3, OType.ubyte, false), (.addh3, .shalf, false), (.addw3, .sword, false), (.subb3, .ubyte, true),
      (.subh3, .shalf, true), (.subw3, .sword, true)],
    ∀ (src1 src2 dst : Operand) (s : State) (t1 t2 t : OType) (a b : Value) (p : Place),
      s.Inv → SourceIs e.2.1 src1 s t1 a → SourceIs t1 src2 s t2 b → DestIs t2 dst s t p →
      let i := if e.2.2 then b.int - a.int else b.int + a.int
      let x := b.bits.toNat % 2 ^ typeBits t
      let y := a.bits.toNat % 2 ^ typeBits t
      let c := if e.2.2 then decide (x < y) else decide (2 ^ typeBits t ≤ x + y)
      ∃ w, exec (e.1 src1 src2 dst) s =
          .next (complete (!fits t i && tellsOverflow [src1, src2] p && pswOe s.regs.psw) w) ∧
        Wrote t p (BitVec.ofInt 32 i) (keepsFlags [src1, src2] p)
          (packFlags (decide (i < 0)) (decide (i = 0)) (!fits t i) c) (encode (e.1 src1 src2 dst)).length s w

/-- INCx and DECx (41_arithmetic R262 to R267): plus and minus 1; the overflow trap if V and OE. Decisions D16, D17 and D19,
log 6. That the OE tested is that of before the write, where the destination is %psw, is log 40. -/
def Obligations.IncrementDecrement : Prop :=
  ∀ e ∈ [(Instr.incb, OType.ubyte, false), (.inch, .shalf, false), (.incw, .sword, false), (.decb, .ubyte, true),
      (.dech, .shalf, true), (.decw, .sword, true)],
    ∀ (dst : Operand) (s : State) (t : OType) (d : Value) (p : Place),
      s.Inv → DestIs e.2.1 dst s t p → readPlace t p s = .ok (d, s) →
      let i := if e.2.2 then d.int - 1 else d.int + 1
      let x := d.bits.toNat % 2 ^ typeBits t
      let c := if e.2.2 then decide (x = 0) else decide (x + 1 = 2 ^ typeBits t)
      ∃ w, exec (e.1 dst) s = .next (complete (!fits t i && pswOe s.regs.psw) w) ∧
        Wrote t p (BitVec.ofInt 32 i) (keepsFlags [] p)
          (packFlags (decide (i < 0)) (decide (i = 0)) (!fits t i) c) (encode (e.1 dst)).length s w

/-- MULx2, DIVx2, MODx2 (41_arithmetic R246, R268 to R270, R274 to R276, R280 to R282): the exact product, the quotient
rounded toward zero, the remainder with the dividend's sign; C is 0; the overflow trap if V and OE. Rounding and the sign of
the remainder are the spec's decision D20, the value of each operand by its own type its decision D19, and which
instructions trap its decision D17, log 6. No trap is taken where a source is %psw, so that the instruction does not set V
(30_encoding R152), unless the destination is %psw too, where R244 tests the fit alone: log 40. That the OE tested is that
of before the write, where the destination is %psw, is log 40; that such a destination takes its flags from the value also
where a source is %psw is log 44. -/
def Obligations.MultiplyDivideTwoAddress : Prop :=
  ∀ e ∈ [(Instr.mulb2, OType.ubyte, fun a b : Int => a * b, false), (.mulh2, .shalf, fun a b => a * b, false),
      (.mulw2, .sword, fun a b => a * b, false), (.divb2, .ubyte, Int.tdiv, true), (.divh2, .shalf, Int.tdiv, true),
      (.divw2, .sword, Int.tdiv, true), (.modb2, .ubyte, Int.tmod, true), (.modh2, .shalf, Int.tmod, true),
      (.modw2, .sword, Int.tmod, true)],
    ∀ (src dst : Operand) (s : State) (ts t : OType) (v d : Value) (p : Place),
      s.Inv → SourceIs e.2.1 src s ts v → DestIs ts dst s t p → readPlace t p s = .ok (d, s) →
      (e.2.2.2 = true → v.int ≠ 0) →
      let i := e.2.2.1 d.int v.int
      ∃ w, exec (e.1 src dst) s = .next (complete (!fits t i && tellsOverflow [src] p && pswOe s.regs.psw) w) ∧
        Wrote t p (BitVec.ofInt 32 i) (keepsFlags [src] p)
          (packFlags (decide (i < 0)) (decide (i = 0)) (!fits t i) false) (encode (e.1 src dst)).length s w

/-- MULx3, DIVx3, MODx3 (41_arithmetic R271 to R273, R277 to R279, R283 to R285): src2 op src1. V is 0 where the result fits
and 1 where it does not, except that for a signed word destination and a result whose absolute value is below 2^32 V may be
either (log 21). Decisions D17, D19 and D20, log 6. No trap is taken where a source is %psw, so that the instruction does
not set V (30_encoding R152), unless the destination is %psw too, where R244 tests the fit, open as V is: logs 21, 40. That
the OE tested is that of before the write, where the destination is %psw, is log 40; that such a destination takes its flags
from the value also where a source is %psw is log 44. -/
def Obligations.MultiplyDivideThreeAddress : Prop :=
  ∀ e ∈ [(Instr.mulb3, OType.ubyte, fun a b : Int => a * b, false), (.mulh3, .shalf, fun a b => a * b, false),
      (.mulw3, .sword, fun a b => a * b, false), (.divb3, .ubyte, Int.tdiv, true), (.divh3, .shalf, Int.tdiv, true),
      (.divw3, .sword, Int.tdiv, true), (.modb3, .ubyte, Int.tmod, true), (.modh3, .shalf, Int.tmod, true),
      (.modw3, .sword, Int.tmod, true)],
    ∀ (src1 src2 dst : Operand) (s : State) (t1 t2 t : OType) (a b : Value) (p : Place),
      s.Inv → SourceIs e.2.1 src1 s t1 a → SourceIs t1 src2 s t2 b → DestIs t2 dst s t p →
      (e.2.2.2 = true → a.int ≠ 0) →
      let i := e.2.2.1 b.int a.int
      ∃ (v : Bool) (w : State), (fits t i = true → v = false) ∧
        (fits t i = false → ¬(t = .sword ∧ i.natAbs < 2 ^ 32) → v = true) ∧
        exec (e.1 src1 src2 dst) s = .next (complete (v && tellsOverflow [src1, src2] p && pswOe s.regs.psw) w) ∧
        Wrote t p (BitVec.ofInt 32 i) (keepsFlags [src1, src2] p)
          (packFlags (decide (i < 0)) (decide (i = 0)) v false) (encode (e.1 src1 src2 dst)).length s w

/-- A division or modulo by zero raises IntegerZeroDivide; nothing is written (41_arithmetic R247). Decision D15, log
6, log 20. -/
def Obligations.DivisionByZeroTraps : Prop :=
  (∀ e ∈ [(Instr.divb2, OType.ubyte), (.divh2, .shalf), (.divw2, .sword), (.modb2, .ubyte), (.modh2, .shalf),
      (.modw2, .sword)],
    ∀ (src dst : Operand) (s : State) (ts t : OType) (v d : Value) (p : Place),
      SourceIs e.2 src s ts v → DestIs ts dst s t p → readPlace t p s = .ok (d, s) → v.int = 0 →
      exec (e.1 src dst) s = .next (fault .integerZeroDivide s)) ∧
  ∀ e ∈ [(Instr.divb3, OType.ubyte), (.divh3, .shalf), (.divw3, .sword), (.modb3, .ubyte), (.modh3, .shalf),
      (.modw3, .sword)],
    ∀ (src1 src2 dst : Operand) (s : State) (t1 t2 t : OType) (a b : Value) (p : Place),
      SourceIs e.2 src1 s t1 a → SourceIs t1 src2 s t2 b → DestIs t2 dst s t p → a.int = 0 →
      exec (e.1 src1 src2 dst) s = .next (fault .integerZeroDivide s)

/-! ## Logic, shifts, compares -/

/-- ALSW3, LLSx3, LRSW3, ROTW (41_arithmetic R286; 42_logical R335 to R340): src shifted left, shifted right with zeros, or
rotated right by the five low bits of count. ARSx3 (41_arithmetic R287 to R289): src, sign-extended from the size of its own
type, shifted right with copies of the sign; V says that bits 31 to N - 1 are not all equal. V by the truncation test is the
spec's decision D18, and that V takes no overflow trap its decision D17, log 6; that ALSW3 is a plain left shift
(90_conflicts C48) and that the V of ARSx3 is that of truncation (C81) is log 7; that ARSx3 takes only the low bits, of its
type's size, of an immediate too is the model's choice, log 43; that a %psw destination takes its flags from the value also
where a source is %psw is log 44. -/
def Obligations.ShiftResult : Prop :=
  (∀ e ∈ [(Instr.alsw3, OType.sword, fun (x : Word) (n : Nat) => x <<< n), (.llsb3, .ubyte, fun x n => x <<< n),
       (.llsh3, .shalf, fun x n => x <<< n), (.llsw3, .sword, fun x n => x <<< n), (.lrsw3, .sword, fun x n => x >>> n),
       (.rotw, .sword, fun x n => x.rotateRight n)],
     ∀ (count src dst : Operand) (s : State) (t1 t2 t : OType) (c v : Value) (p : Place),
       s.Inv → SourceIs e.2.1 count s t1 c → SourceIs t1 src s t2 v → DestIs t2 dst s t p →
       let x := e.2.2 v.bits (c.bits.toNat % 32)
       ∃ w, exec (e.1 count src dst) s = .next (complete false w) ∧
         Wrote t p x (keepsFlags [count, src] p) (packFlags (msbOf t x) (isZero t x) (!fits t (intOf t x)) false)
           (encode (e.1 count src dst)).length s w) ∧
  ∀ e ∈ [(Instr.arsb3, OType.ubyte), (.arsh3, .shalf), (.arsw3, .sword)],
    ∀ (count src dst : Operand) (s : State) (t1 t2 t : OType) (c v : Value) (p : Place),
      s.Inv → SourceIs e.2 count s t1 c → SourceIs t1 src s t2 v → DestIs t2 dst s t p →
      let x := (sextLow (typeBits t2) v.bits).sshiftRight (c.bits.toNat % 32)
      ∃ w, exec (e.1 count src dst) s = .next (complete false w) ∧
        Wrote t p x (keepsFlags [count, src] p)
          (packFlags (msbOf t x) (isZero t x) (decide (sextLow (typeBits t) x ≠ x)) false)
          (encode (e.1 count src dst)).length s w

/-- ANDx2, ANDx3, ORx2, ORx3, XORx2, XORx3 (42_logical R300 to R318). V by the truncation test is the spec's decision D18,
and that V takes no overflow trap its decision D17, log 6; that a %psw destination takes its flags from the value also where
a source is %psw is log 44. -/
def Obligations.LogicResult : Prop :=
  (∀ e ∈ [(Instr.andb2, OType.ubyte, fun a b : Word => a &&& b), (.andh2, .shalf, fun a b => a &&& b),
       (.andw2, .sword, fun a b => a &&& b), (.orb2, .ubyte, fun a b => a ||| b), (.orh2, .shalf, fun a b => a ||| b),
       (.orw2, .sword, fun a b => a ||| b), (.xorb2, .ubyte, fun a b => a ^^^ b), (.xorh2, .shalf, fun a b => a ^^^ b),
       (.xorw2, .sword, fun a b => a ^^^ b)],
     ∀ (src dst : Operand) (s : State) (ts t : OType) (v d : Value) (p : Place),
       s.Inv → SourceIs e.2.1 src s ts v → DestIs ts dst s t p → readPlace t p s = .ok (d, s) →
       let x := e.2.2 d.bits v.bits
       ∃ w, exec (e.1 src dst) s = .next (complete false w) ∧
         Wrote t p x (keepsFlags [src] p) (packFlags (msbOf t x) (isZero t x) (!fits t (intOf t x)) false)
           (encode (e.1 src dst)).length s w) ∧
  ∀ e ∈ [(Instr.andb3, OType.ubyte, fun a b : Word => a &&& b), (.andh3, .shalf, fun a b => a &&& b),
      (.andw3, .sword, fun a b => a &&& b), (.orb3, .ubyte, fun a b => a ||| b), (.orh3, .shalf, fun a b => a ||| b),
      (.orw3, .sword, fun a b => a ||| b), (.xorb3, .ubyte, fun a b => a ^^^ b), (.xorh3, .shalf, fun a b => a ^^^ b),
      (.xorw3, .sword, fun a b => a ^^^ b)],
    ∀ (src1 src2 dst : Operand) (s : State) (t1 t2 t : OType) (a b : Value) (p : Place),
      s.Inv → SourceIs e.2.1 src1 s t1 a → SourceIs t1 src2 s t2 b → DestIs t2 dst s t p →
      let x := e.2.2 b.bits a.bits
      ∃ w, exec (e.1 src1 src2 dst) s = .next (complete false w) ∧
        Wrote t p x (keepsFlags [src1, src2] p) (packFlags (msbOf t x) (isZero t x) (!fits t (intOf t x)) false)
          (encode (e.1 src1 src2 dst)).length s w

/-- CMPx, BITx, TSTx only set flags (42_logical R319 to R330): CMP N src2 < src1 signed, Z equal, C src2 < src1
unsigned; BIT N and Z of src2 AND src1 at src2's size; TST N and Z of src. TST: decision D22, log 6. -/
def Obligations.CompareAndTest : Prop :=
  (∀ e ∈ [(Instr.cmpb, OType.ubyte), (.cmph, .shalf), (.cmpw, .sword)],
    ∀ (src1 src2 : Operand) (s : State) (t1 t2 : OType) (a b : Value),
      s.Inv → SourceIs e.2 src1 s t1 a → SourceIs t1 src2 s t2 b →
      ∃ w, exec (e.1 src1 src2) s = .next (complete false w) ∧
        SetsFlags (readsPsw src1 || readsPsw src2)
          (packFlags (decide (b.bits.toInt < a.bits.toInt)) (decide (a.bits = b.bits)) false
            (decide (b.bits.toNat < a.bits.toNat)))
          (encode (e.1 src1 src2)).length s w) ∧
  (∀ e ∈ [(Instr.bitb, OType.ubyte), (.bith, .shalf), (.bitw, .sword)],
    ∀ (src1 src2 : Operand) (s : State) (t1 t2 : OType) (a b : Value),
      s.Inv → SourceIs e.2 src1 s t1 a → SourceIs t1 src2 s t2 b →
      ∃ w, exec (e.1 src1 src2) s = .next (complete false w) ∧
        SetsFlags (readsPsw src1 || readsPsw src2)
          (packFlags (msbOf t2 (b.bits &&& a.bits)) (isZero t2 (b.bits &&& a.bits)) false false)
          (encode (e.1 src1 src2)).length s w) ∧
  ∀ e ∈ [(Instr.tstb, OType.ubyte), (.tsth, .shalf), (.tstw, .sword)],
    ∀ (src : Operand) (s : State) (t : OType) (v : Value), s.Inv → SourceIs e.2 src s t v →
      ∃ w, exec (e.1 src) s = .next (complete false w) ∧
        SetsFlags (readsPsw src) (packFlags (decide (v.bits.toInt < 0)) (decide (v.bits = 0)) false false)
          (encode (e.1 src)).length s w

/-- CLRx stores 0 and sets N 0, Z 1, V 0, C 0 (42_logical R331 to R334); the destination is not read; a register takes 0 in
all 32 bits; %psw takes 0 in every field that can be written, the flags among them (not I, log 11). A literal or an
immediate raises InvalidDescriptor and a privileged register outside kernel level PrivilegedRegister, with nothing changed; a
refused write raises ExternalMemory with the flags set. That C is 0 is the spec's reading of a table (90_conflicts C50), log 7. -/
def Obligations.ClearResult : Prop :=
  ∀ e ∈ [(Instr.clrb, OType.ubyte), (.clrh, .shalf), (.clrw, .sword)], ∀ (dst : Operand) (s : State), s.Inv →
    (∀ (t : OType) (p : Place), DestIs e.2 dst s t p →
      ∃ w, exec (e.1 dst) s = .next (complete false w) ∧
        Wrote t p 0 (keepsFlags [] p) 0b0100 (encode (e.1 dst)).length s w) ∧
    (Role.dst.accepts dst = false → exec (e.1 dst) s = .next (fault .invalidDescriptor s)) ∧
    (dst.wellFormed .dst = true → ¬Permitted dst s → exec (e.1 dst) s = .next (fault .privilegedRegister s)) ∧
    (dst.wellFormed .dst = true → Permitted dst s → s.bus = [] →
      (∀ x t, resolve dst.mode s = .error (x, t) → exec (e.1 dst) s = .next (fault .externalMemory s)) ∧
      ∀ a, resolve dst.mode s = .ok (.memory a, s) →
        writeReach s .write (typeSize (typeAt e.2 dst)) a 0 = none →
        exec (e.1 dst) s = .next (fault .externalMemory (setFlags 0b0100 s)))

/-! ## Program control -/

/-- The branches (43_program_control R350 to R377): taken, control goes to the branch's own address plus the
sign-extended displacement; not taken, behind it; nothing else changes. The conditions are those of R351 on N, Z, V, C, where
the spec corrects four printed formulas (90_conflicts C53), log 7. -/
def Obligations.BranchResult : Prop :=
  ∀ (s : State) (n z v c : Bool), n = (flags s).getLsbD 3 → z = (flags s).getLsbD 2 → v = (flags s).getLsbD 1 →
    c = (flags s).getLsbD 0 →
    (∀ e ∈ [(Instr.brb, true), (.bccb, !c), (.bgeub, !c), (.bcsb, c), (.blub, c), (.beb, z), (.beb6f, z),
        (.bgb, !(n || z)), (.bgeb, !n || z), (.bgub, !(c || z)), (.blb, n && !z), (.bleb, n || z), (.bleub, c || z),
        (.bneb, !z), (.bneb67, !z), (.bvcb, !v), (.bvsb, v)],
      ∀ d : BitVec 8, ∃ w, exec (e.1 d) s = .next (complete false w) ∧
        (e.2 = true → Jumps [] (s.regs.pc + BitVec.ofInt 32 d.toInt) s w) ∧ (e.2 = false → Advances [] 2 s w)) ∧
    ∀ e ∈ [(Instr.brh, true), (.bcch, !c), (.bgeuh, !c), (.bcsh, c), (.bluh, c), (.beh, z), (.beh6e, z),
        (.bgh, !(n || z)), (.bgeh, !n || z), (.bguh, !(c || z)), (.blh, n && !z), (.bleh, n || z), (.bleuh, c || z),
        (.bneh, !z), (.bneh66, !z), (.bvch, !v), (.bvsh, v)],
      ∀ d : BitVec 16, ∃ w, exec (e.1 d) s = .next (complete false w) ∧
        (e.2 = true → Jumps [] (s.regs.pc + BitVec.ofInt 32 d.toInt) s w) ∧ (e.2 = false → Advances [] 3 s w)

/-- The returns (43_program_control R384 to R399): where the condition holds, the word below SP becomes the PC and SP
goes down by 4; if it cannot be read, ExternalMemory with nothing changed. Else control goes on and the stack is not
touched. The conditions are those of R351, where the spec corrects four printed formulas (90_conflicts C53), log 7. -/
def Obligations.ReturnResult : Prop :=
  ∀ (s : State) (n z v c : Bool), n = (flags s).getLsbD 3 → z = (flags s).getLsbD 2 → v = (flags s).getLsbD 1 →
    c = (flags s).getLsbD 0 →
    ∀ e ∈ [(Instr.rsb, true), (.rcc, !c), (.rgequ, !c), (.rcs, c), (.rlssu, c), (.reql, z), (.reqlu, z),
        (.rgeq, !n || z), (.rgtr, !(n || z)), (.rgtru, !(c || z)), (.rleq, n || z), (.rlequ, c || z), (.rlss, n && !z),
        (.rneq, !z), (.rnequ, !z), (.rvc, !v), (.rvs, v)],
      (∀ x, e.2 = true → s.bus = [] → memRead s .operandFetch .word (s.regs.sp - 4) = some x →
        ∃ w, exec e.1 s = .next (complete false w) ∧ Jumps [.sp] x s w ∧ w.regs.sp = s.regs.sp - 4) ∧
      (e.2 = true → s.bus = [] → memRead s .operandFetch .word (s.regs.sp - 4) = none →
        exec e.1 s = .next (fault .externalMemory s)) ∧
      (e.2 = false → ∃ w, exec e.1 s = .next (complete false w) ∧ Advances [] 1 s w)

/-- JMP goes to the effective address of its operand (43_program_control R378). BSBB, BSBH and JSB push the address of the
next instruction and go to the target, formed with the old SP (R380 to R383). -/
def Obligations.JumpsAndSubroutineCalls : Prop :=
  (∀ (dst : Operand) (s : State) (a : Word), AddressIs .addr dst s a →
     ∃ w, exec (.jmp dst) s = .next (complete false w) ∧ Jumps [] a s w) ∧
  ∀ (s : State) (q : Reached), s.Inv → s.bus = [] →
    let writable := fun (len : Nat) => writeReach s .write .word s.regs.sp (s.regs.pc + BitVec.ofNat 32 len) = some q
    let pushes := fun (len : Nat) (target : Word) (w : State) =>
      SameMachine s w ∧ GoesTo target s w ∧ SamePsw s w ∧ RegsBut [.sp] s w ∧ w.regs.sp = s.regs.sp + 4 ∧
        StoredAt .word q (s.regs.pc + BitVec.ofNat 32 len) s w
    (∀ d : BitVec 8, writable 2 → ∃ w, exec (.bsbb d) s = .next (complete false w) ∧
      pushes 2 (s.regs.pc + BitVec.ofInt 32 d.toInt) w) ∧
    (∀ d : BitVec 16, writable 3 → ∃ w, exec (.bsbh d) s = .next (complete false w) ∧
      pushes 3 (s.regs.pc + BitVec.ofInt 32 d.toInt) w) ∧
    ∀ (dst : Operand) (a : Word), AddressIs .addrPlain dst s a → writable (encode (.jsb dst)).length →
      ∃ w, exec (.jsb dst) s = .next (complete false w) ∧ pushes (encode (.jsb dst)).length a w

/-- CALL (43_program_control R401): the return address and AP are stored at SP and SP + 4, SP goes up by 8, AP takes the
address of src and the PC that of dst, both formed before anything changes. RET (R404): AP and the PC come from the words
at SP - 4 and SP - 8, SP from the old AP; if one cannot be read, ExternalMemory with nothing changed. A reset request
between the two stores of CALL abandons it there: AP is stored, the return address is not, no register changes, and what
another bus master wrote in between stays written (70_reset_and_hazards R600, 20_memory R101; that the first store is that
of AP, at SP + 4, is the order of R401). -/
def Obligations.CallAndReturn : Prop :=
  (∀ (src dst : Operand) (s : State) (a b : Word), s.Inv → Plain s → Aligned s.regs.sp →
     AddressIs .addrPlain src s a → AddressIs .addrPlain dst s b →
     ∃ w, exec (.call src dst) s = .next (complete false w) ∧ SameMachine s w ∧ GoesTo b s w ∧ SamePsw s w ∧
       RegsBut [.sp, .ap] s w ∧ w.regs.sp = s.regs.sp + 8 ∧ w.regs.ap = a ∧
       WordsAt s.regs.sp [s.regs.pc + BitVec.ofNat 32 (encode (.call src dst)).length, s.regs.ap] s w) ∧
  (∀ (s : State) (x y : Word), s.bus = [] → memRead s .operandFetch .word (s.regs.sp - 4) = some x →
     memRead s .operandFetch .word (s.regs.sp - 8) = some y →
     ∃ w, exec .ret s = .next (complete false w) ∧ Jumps [.ap, .sp] y s w ∧ w.regs.ap = x ∧ w.regs.sp = s.regs.ap) ∧
  (∀ s : State, s.bus = [] → (memRead s .operandFetch .word (s.regs.sp - 4) = none ∨
      memRead s .operandFetch .word (s.regs.sp - 8) = none) → exec .ret s = .next (fault .externalMemory s)) ∧
  ∀ (src dst : Operand) (s : State) (a b : Word) (ws : List (Word × Byte)) (i : Inputs), s.virtualMode = false →
    s.inputs.replies = [] → s.inputs.resetr = false → Aligned s.regs.sp → i.resetr = true →
    s.bus = [{ writes := [], inputs := none }, { writes := ws, inputs := some i }] →
    src.wellFormed .addrPlain = true → dst.wellFormed .addrPlain = true →
    effectiveAddress src.mode s = .ok (a, s) → effectiveAddress dst.mode s = .ok (b, s) →
    exec (.call src dst) s = .next { s with
      bus := [], inputs := i, phase := .resetting true, pendingOverflow := false
      mem := busWritten (writeData s.mem .word (s.regs.sp + 4) s.regs.ap) ws }

/-- SAVE %rn, n from 0 to 9 (43_program_control R402): FP and r[n] to r8 are stored from SP up; SP and FP become the
old SP + 28. -/
def Obligations.SaveResult : Prop :=
  ∀ (r : Reg) (s : State), s.Inv → Plain s → Aligned s.regs.sp → r.saveable = true →
    ∃ w, exec (.save { mode := .register r }) s = .next (complete false w) ∧ SameMachine s w ∧ GoesOn 2 s w ∧
      SamePsw s w ∧ RegsBut [.sp, .fp] s w ∧ w.regs.sp = s.regs.sp + 28 ∧ w.regs.fp = s.regs.sp + 28 ∧
      WordsAt s.regs.sp
        (s.regs.fp :: (List.range (9 - r.num.toNat)).map fun k => reg s (Reg.ofNum (r.num + BitVec.ofNat 4 k))) s w

/-- RESTORE %rn, n from 0 to 9 (43_program_control R403): r[n] to r8 come from the words at FP - 24 up, FP from the word
at FP - 28, and SP becomes the old FP - 28. -/
def Obligations.RestoreResult : Prop :=
  ∀ (r : Reg) (s : State), Plain s → Aligned s.regs.fp → r.saveable = true →
    ∃ w, exec (.restore { mode := .register r }) s = .next (complete false w) ∧
      Advances [.sp, .fp, .r0, .r1, .r2, .r3, .r4, .r5, .r6, .r7, .r8] 2 s w ∧
      w.regs.fp = wordAt s (s.regs.fp - 28) ∧ w.regs.sp = s.regs.fp - 28 ∧
      (∀ k, k < 9 - r.num.toNat →
        reg w (Reg.ofNum (r.num + BitVec.ofNat 4 k)) = wordAt s (s.regs.fp - 24 + BitVec.ofNat 32 (4 * k))) ∧
      ∀ k, k < r.num.toNat → k < 9 → reg w (Reg.ofNum (BitVec.ofNat 4 k)) = reg s (Reg.ofNum (BitVec.ofNat 4 k))

/-- SAVE and RESTORE of an operand that is no register from r0 to r9: the results are indeterminate, so the model
claims no next state (43_program_control R402, R403). The spec's decision D21, log 6. A memory mode with register 11 is
another matter: it raises InvalidDescriptor, log 15. -/
def Obligations.IndeterminateSaveRestore : Prop :=
  ∀ (o : Operand) (s : State), Role.regList.accepts o = true →
    (∀ r, o.mode = .register r → r.saveable = false) →
    exec (.save o) s = .fault .indeterminateSave ∧ exec (.restore o) s = .fault .indeterminateRestore

/-! ## Coprocessor -/

/-- The coprocessor instructions (44_coprocessor R431 to R447), with a coprocessor that acknowledges and answers done:
it sees the command word and then the 0 to 3 source words; N, Z, V, C become bits 21 to 18 of its status word; the 0 to
3 words it drives are stored at the destination; nothing else changes. The order of the words is the spec's decision
D24, log 6. -/
def Obligations.CoprocessorResult : Prop :=
  ∀ (word : Word) (s : State), s.Inv → Plain s → s.inputs.cop.ack = true → s.inputs.cop.done = true →
    s.inputs.cop.statusFault = false →
    let effect := fun (n : Nat) (a : Word) (k : Nat) (b : Word) (len : Nat) (w : State) =>
      let seen := (List.range n).reverse.map fun j => CopEvent.operand (wordAt s (a + BitVec.ofNat 32 (4 * j)))
      SameMachine { s with phase := .running, copBus := seen ++ (.broadcast word :: s.copBus) } w ∧ GoesOn len s w ∧
        RegsBut [] s w ∧
        FlagsAre false (pswFlags s.inputs.cop.status) s w ∧
        WordsAt b ([s.inputs.cop.d0, s.inputs.cop.d1, s.inputs.cop.d2].take k) s w
    (∃ w, exec (.spop word) s = .next (complete false w) ∧ effect 0 0 0 0 5 w) ∧
    (∀ e ∈ [(Instr.spoprs, 1), (.spoprd, 2), (.spoprt, 3)], ∀ (src : Operand) (a : Word),
      AddressIs .addrPlain src s a → Aligned a →
      ∃ w, exec (e.1 word src) s = .next (complete false w) ∧ effect e.2 a 0 0 (encode (e.1 word src)).length w) ∧
    (∀ e ∈ [(Instr.spopws, 1), (.spopwd, 2), (.spopwt, 3)], ∀ (dst : Operand) (b : Word),
      AddressIs .addrPlain dst s b → Aligned b →
      ∃ w, exec (e.1 word dst) s = .next (complete false w) ∧ effect 0 0 e.2 b (encode (e.1 word dst)).length w) ∧
    ∀ e ∈ [(Instr.spops2, 1), (.spopd2, 2), (.spopt2, 3)], ∀ (src dst : Operand) (a b : Word),
      AddressIs .addrPlain src s a → AddressIs .addrPlain dst s b → Aligned a → Aligned b →
      ∃ w, exec (e.1 word src dst) s = .next (complete false w) ∧
        effect e.2 a e.2 b (encode (e.1 word src dst)).length w

/-- The coprocessor instructions where the coprocessor does not answer at once (44_coprocessor R431, R433, R436). A pointer
of a deferred operand that cannot be read is a memory exception, the source's before the destination's, nothing else changed
where nothing happens on the bus: the broadcast has not been made (R436). Without an acknowledge the broadcast is a memory
exception, nothing else changed. With one, and without done, the command word and the source words are on the bus and the
processor waits, with the result's address and word count and the instruction's length. A step of the wait without done
changes nothing; one with done fetches the status and stores the words driven, as the instruction does. The first source
word that cannot be read is a memory exception; the coprocessor has seen the words before it and is told nothing more (log
10). A faulted status fetch is a memory exception with the flags as before (R434), and the first result word that cannot be
written one with the flags set and the words before it written (R435), in the instruction as in a step of the wait. The
order of the words is the spec's decision D24, log 6. -/
def Obligations.CoprocessorAbsentOrBusy : Prop :=
  let refused := fun (s t : State) (b : Word) (k : Nat) (o : Outcome) =>
    let words := [s.inputs.cop.d0, s.inputs.cop.d1, s.inputs.cop.d2]
    let reach := fun (j : Nat) => writeReach s .copWrite .word (b + BitVec.ofNat 32 (4 * j)) (words.getD j 0)
    ∀ (j : Nat) (qs : List Reached), j < k → j < 3 → qs.length = j → (∀ i, i < j → reach i = qs[i]?) → reach j = none →
      let m := landed s.mem words qs
      o = .next (fault .externalMemory { setFlags (pswFlags s.inputs.cop.status) t with mem := m }) ∧
        (∀ x, (∀ a, .memory a ∈ qs → ¬covers .word a x) → peek m x = peek s.mem x) ∧
        ((∀ i, i < j → reach i = some (.memory (b + BitVec.ofNat 32 (4 * i)))) →
          ∀ i, i < j → readData m .word (b + BitVec.ofNat 32 (4 * i)) = words.getD i 0)
  (∀ (word : Word) (s : State), s.bus = [] →
    let waits := fun (i : Instr) (n : Nat) (a b : Word) (k : Nat) =>
      (s.inputs.cop.ack = false → exec i s = .next (fault .externalMemory s)) ∧
      (Plain s → Aligned a → s.inputs.cop.ack = true → s.inputs.cop.done = false →
        exec i s = .next { s with
          phase := .coprocessor b k (encode i).length
          copBus := ((List.range n).reverse.map fun j => CopEvent.operand (wordAt s (a + BitVec.ofNat 32 (4 * j)))) ++
            (.broadcast word :: s.copBus) }) ∧
      ∀ ws : List Word, s.inputs.cop.ack = true →
        (∀ j, j < ws.length → memRead s .copFetch .word (a + BitVec.ofNat 32 (4 * j)) = ws[j]?) →
        let seen := { s with copBus := (ws.reverse.map CopEvent.operand) ++ (.broadcast word :: s.copBus) }
        (ws.length < n → memRead s .copFetch .word (a + BitVec.ofNat 32 (4 * ws.length)) = none →
          exec i s = .next (fault .externalMemory seen)) ∧
        (ws.length = n → s.inputs.cop.done = true →
          (s.inputs.cop.statusFault = true → exec i s = .next (fault .externalMemory seen)) ∧
          (s.Inv → s.inputs.cop.statusFault = false → refused s seen b k (exec i s)))
    waits (.spop word) 0 0 0 0 ∧
    (∀ e ∈ [(Instr.spoprs, 1), (.spoprd, 2), (.spoprt, 3)], ∀ (src : Operand) (a : Word),
      AddressIs .addrPlain src s a → waits (e.1 word src) e.2 a 0 0) ∧
    (∀ e ∈ [(Instr.spopws, 1), (.spopwd, 2), (.spopwt, 3)], ∀ (dst : Operand) (b : Word),
      AddressIs .addrPlain dst s b → waits (e.1 word dst) 0 0 b e.2) ∧
    ∀ e ∈ [(Instr.spops2, 1), (.spopd2, 2), (.spopt2, 3)], ∀ (src dst : Operand) (a b : Word),
      AddressIs .addrPlain src s a → AddressIs .addrPlain dst s b → waits (e.1 word src dst) e.2 a b e.2) ∧
  (∀ (word : Word) (o : Operand) (s t : State) (e : Exn), o.wellFormed .addrPlain = true →
    effectiveAddress o.mode s = .error (e, t) →
    (s.bus = [] → e = .externalMemory ∧ t = s) ∧
    (∀ i ∈ [Instr.spoprs, .spoprd, .spoprt, .spopws, .spopwd, .spopwt], exec (i word o) s = .next (fault e t)) ∧
    ∀ i ∈ [Instr.spops2, .spopd2, .spopt2], ∀ other : Operand, other.wellFormed .addrPlain = true →
      exec (i word o other) s = .next (fault e t) ∧
      ∀ (a : Word) (u : State), effectiveAddress other.mode u = .ok (a, s) → exec (i word other o) u = .next (fault e t)) ∧
  ∀ (b : Word) (k len : Nat) (s : State), s.Inv → s.phase = .coprocessor b k len →
    (s.inputs.cop.done = false → byPhase s = .next s) ∧
    (s.inputs.cop.done = true → s.bus = [] → s.inputs.cop.statusFault = true →
      byPhase s = .next (fault .externalMemory s)) ∧
    (s.inputs.cop.done = true → s.inputs.cop.statusFault = false → Plain s → k ≤ 3 → (k = 0 ∨ Aligned b) →
      ∃ w, byPhase s = .next (complete false w) ∧ SameMachine { s with phase := .running } w ∧ GoesOn len s w ∧
        RegsBut [] s w ∧ FlagsAre false (pswFlags s.inputs.cop.status) s w ∧
        WordsAt b ([s.inputs.cop.d0, s.inputs.cop.d1, s.inputs.cop.d2].take k) s w) ∧
    (s.inputs.cop.done = true → s.inputs.cop.statusFault = false → s.bus = [] → refused s s b k (byPhase s))

/-! ## Stack and miscellaneous -/

/-- PUSHW and PUSHAW store the source, or its address, at SP and move SP up by 4; N and Z are those of the word
(45_stack_misc R450 to R452). -/
def Obligations.PushResult : Prop :=
  ∀ (src : Operand) (s : State) (q : Reached), s.Inv → s.bus = [] →
    let writable := fun (x : Word) => writeReach s .write .word s.regs.sp x = some q
    let pushed := fun (x : Word) (keep : Bool) (len : Nat) (w : State) =>
      SameMachine s w ∧ GoesOn len s w ∧ RegsBut [.sp] s w ∧ w.regs.sp = s.regs.sp + 4 ∧
        FlagsAre keep (packFlags (x.getLsbD 31) (decide (x = 0)) false false) s w ∧ StoredAt .word q x s w
    (∀ v, src.wellFormed .srcPlain = true → readSource .sword src.mode s = .ok (v, s) → writable v.bits →
      ∃ w, exec (.pushw src) s = .next (complete false w) ∧
        pushed v.bits (readsPsw src) (encode (.pushw src)).length w) ∧
    ∀ a, AddressIs .addrPlain src s a → writable a →
      ∃ w, exec (.pushaw src) s = .next (complete false w) ∧ pushed a false (encode (.pushaw src)).length w

/-- POPW moves the word below SP to its destination and SP down by 4; the destination's address is formed with the old
SP; the final SP of POPW %sp is any value (45_stack_misc R453, log 22). -/
def Obligations.PopResult : Prop :=
  ∀ (dst : Operand) (s : State) (p : Place) (x : Word), s.Inv → s.bus = [] → dst.wellFormed .dstPlain = true →
    Permitted dst s → resolve dst.mode s = .ok (p, s) → Storable .sword p s →
    memRead s .operandFetch .word (s.regs.sp - 4) = some x →
    let f := packFlags (x.getLsbD 31) (decide (x = 0)) false false
    ∃ w, exec (.popw dst) s = .next (complete false w) ∧
      (p ≠ .register .sp → w.regs.sp = s.regs.sp - 4 ∧
        Wrote .sword p x (keepsFlags [] p) f (encode (.popw dst)).length (setReg .sp (s.regs.sp - 4) s) w) ∧
      (p = .register .sp → ∃ v, Wrote .sword p v (keepsFlags [] p) f (encode (.popw dst)).length s w)

/-- NOP, NOP2 and NOP3 only advance; MVERNO puts the sign-extended version number in r0; CFLUSH empties the cache and
the queue (45_stack_misc R455 to R457, R459; 40_data_transfer R213). BPT takes the breakpoint trap with the PC behind
it, EXTOP the reserved-opcode fault with the PC at it (R458, R460). Where a late overflow trap is pending (70_reset_and_hazards
R612), it comes in place of BPT's own trap, log 25, and EXTOP's fault drops it, the spec's decision D31. MVERNO's number is an
open parameter, log 27; that CFLUSH empties the queue too is the spec's decision D4, log 6. -/
def Obligations.SimpleInstructions : Prop :=
  (∀ s : State,
     (∀ e ∈ [(Instr.nop, 1), (.nop2, 2), (.nop3, 3)],
       ∃ w, exec e.1 s = .next (complete false w) ∧ Advances [] e.2 s w) ∧
     (∃ w, exec .mverno s = .next (complete false w) ∧ Advances [.r0] 2 s w ∧
       w.regs.r0 = Config.versionNumber.signExtend 32) ∧
     ∃ w, exec .cflush s = .next (complete false w) ∧
       Advances [] 1 { s with icache := [], iqueue := [], cacheCorrupt := false } w) ∧
  ∀ s : State,
    (s.pendingOverflow = false → (∃ w, exec .bpt s = .next (raise .breakpoint w) ∧ Advances [] 1 s w) ∧
      exec .extop s = .next (raise .reservedOpcode s)) ∧
    (s.pendingOverflow = true →
      (∃ w, exec .bpt s = .next (raise .integerOverflow w) ∧ Advances [] 1 { s with pendingOverflow := false } w) ∧
      exec .extop s = .next (raise .reservedOpcode { s with pendingOverflow := false }))

/-! ## Operating system -/

/-- GATE (46_operating_system R472, R473): SP within the bounds of the PCB; the address of the next instruction and the PSW
with ISC 1, TM 0, ET 2 are pushed; the two tables, indexed by r0 and r1, give the new PSW and PC. SP out of the bounds raises
StackBound, nothing written. What a memory exception raises (R471, R482): GatePcb for the bounds, StackFault for the pushes,
GateVector for the table and its entry, SP and PC as before. That the bounds are compared unsigned is the spec's decision
D26, log 6. -/
def Obligations.GateResult : Prop :=
  (∀ (s : State), s.Inv → s.phase = .running → Plain s → Aligned s.regs.pcbp → Aligned s.regs.sp →
    wordAt s (s.regs.pcbp + 12) ≤ s.regs.sp → s.regs.sp < wordAt s (s.regs.pcbp + 16) →
    let saved := (s.regs.psw &&& 0x03FFFF80) ||| 0x0A
    let m := { s with mem := writeData (writeData s.mem .word s.regs.sp (s.regs.pc + 2)) .word (s.regs.sp + 4) saved }
    let table := wordAt m (s.regs.r0 &&& 0x7C)
    let entry := table + (s.regs.r1 &&& 0x7FF8)
    Aligned table →
    ∃ w, exec .gate s = .next (complete false w) ∧ WordsAt s.regs.sp [s.regs.pc + 2, saved] s w ∧
      GoesTo (wordAt m (entry + 4)) s w ∧ w.regs.psw = gatePsw s.regs.psw (wordAt m entry) ∧
      w.regs.sp = s.regs.sp + 8 ∧ OnlyRegs [.pc, .psw, .sp] s w ∧ SameMachine s w) ∧
  ∀ (s : State), s.Inv → s.phase = .running → s.bus = [] →
    let k := forceKernel true s
    let saved := (s.regs.psw &&& 0x03FFFF80) ||| 0x0A
    let faults := fun (x : Exn) => ∃ t, exec .gate s = .next (fault x t) ∧ t.regs.sp = s.regs.sp ∧ t.regs.pc = s.regs.pc
    (Unreadable k (pcbWord s 3) ∨ Unreadable k (pcbWord s 4) → exec .gate s = .next (fault .gatePcb k)) ∧
    ∀ lo hi, memRead k .operandFetch .word (pcbWord s 3) = some lo → memRead k .operandFetch .word (pcbWord s 4) = some hi →
      (s.regs.sp < lo ∨ hi ≤ s.regs.sp → exec .gate s = .next (fault .stackBound k)) ∧
      (lo ≤ s.regs.sp → s.regs.sp < hi →
        (Unwritable s s.regs.sp → exec .gate s = .next (fault .stackFault s)) ∧
        (Writable s s.regs.sp → Unwritable s (s.regs.sp + 4) → faults .stackFault) ∧
        (Writable s s.regs.sp → Writable s (s.regs.sp + 4) → Unreadable k (s.regs.r0 &&& 0x7C) → faults .gateVector) ∧
        ∀ q1 q2 p, writeReach s .write .word s.regs.sp (s.regs.pc + 2) = some q1 →
          writeReach s .write .word (s.regs.sp + 4) saved = some q2 →
          readReach k .operandFetch .word (s.regs.r0 &&& 0x7C) = some p →
          let m := deposited (deposited s.mem .word q1 (s.regs.pc + 2)) .word q2 saved
          let entry := received m .word p + (s.regs.r1 &&& 0x7FF8)
          Unreadable k entry ∨ Unreadable k (entry + 4) → faults .gateVector)

/-- RETG (46_operating_system R474): to an equal or less privileged level, the PC and OE, the flags, TE, CM, PM and I come
from the stack, ISC 7, TM 0, ET 3, the other fields stay, SP goes down by 8; to a more privileged one it raises
IllegalLevelChange. A saved word that cannot be read raises StackFault (R471, R482), nothing changed. -/
def Obligations.ReturnFromGate : Prop :=
  (∀ (s : State), s.bus = [] → Unreadable s (s.regs.sp - 4) ∨ Unreadable s (s.regs.sp - 8) →
    exec .retg s = .next (fault .stackFault s)) ∧
  ∀ (s : State), Plain s → Aligned s.regs.sp →
    let saved := wordAt s (s.regs.sp - 4)
    ((pswCm s.regs.psw).toNat ≤ (pswCm saved).toNat →
      ∃ w, exec .retg s = .next (complete false w) ∧ SameMachine s w ∧ GoesTo (wordAt s (s.regs.sp - 8)) s w ∧
        w.regs.psw = (saved &&& 0x007E1E80) ||| (s.regs.psw &&& 0x0381E100) ||| 0x3B ∧
        w.regs.sp = s.regs.sp - 8 ∧ OnlyRegs [.pc, .psw, .sp] s w ∧ SameMemory s w) ∧
    ((pswCm saved).toNat < (pswCm s.regs.psw).toNat → exec .retg s = .next (fault .illegalLevelChange s))

/-- CALLPS at kernel level (46_operating_system R476, R477, R479): the PCBP is pushed on the interrupt stack; the address
of the next instruction, the PSW (ISC 0, TM 0, ET 1, R from the new image) and SP are saved in the current PCB; the PCB at
r0 gives PSW, PC and SP. With R clear in the new image the instruction is over; with R set AP, FP and r0 to r8 are saved
too, FP becomes the old PCBP + 52, and the block moves begin, r0 and r2 at the first block: that the step ends there, the
moves being steps of their own in the uninterrupted sequence, is log 17. What is read is clear of what is saved; the stack
bounds in the PCB stay. What a memory exception raises (R471, R482): InterruptStack for the push, nothing changed, OldPcb for
the saves, NewPcb for the new PCB. -/
def Obligations.CallProcess : Prop :=
  (∀ (s : State), s.Inv → s.phase = .running → Plain s → isKernel s = true → Aligned s.regs.isp →
    Aligned s.regs.pcbp →
    let a := s.regs.r0
    let image := wordAt s a
    let saved := (s.regs.psw &&& 0x03FFFE80) ||| (image &&& 0x00000100) ||| 1
    let switched := fun (n : Nat) (rs : List Reg) (w : State) =>
      wordAt w s.regs.isp = s.regs.pcbp ∧ wordAt w s.regs.pcbp = saved ∧
        wordAt w (s.regs.pcbp + 4) = s.regs.pc + 2 ∧ wordAt w (s.regs.pcbp + 8) = s.regs.sp ∧
        (∀ x, ¬(x - s.regs.isp).toNat < 4 → ¬(x - s.regs.pcbp).toNat < 12 →
        ¬(20 ≤ (x - s.regs.pcbp).toNat ∧ (x - s.regs.pcbp).toNat < n) → peek w.mem x = peek s.mem x) ∧
        w.regs.psw = processPsw (pswR image) 0x3B image ∧ w.regs.pc = wordAt s (a + 4) ∧
        w.regs.sp = wordAt s (a + 8) ∧ w.regs.pcbp = processPcbp a image ∧ w.regs.isp = s.regs.isp + 4 ∧
        OnlyRegs ([.psw, .pc, .sp, .pcbp, .isp] ++ rs) s w ∧ Flushed image s w
    Aligned a →
    (pswR image = false →
      (∀ x ∈ [s.regs.isp, s.regs.pcbp, s.regs.pcbp + 4, s.regs.pcbp + 8], x ∉ [a, a + 4, a + 8]) →
      s.regs.isp ∉ [s.regs.pcbp, s.regs.pcbp + 4, s.regs.pcbp + 8] →
      ∃ w, exec .callps s = .next (complete false w) ∧ switched 12 [] w ∧ SameMachine s w) ∧
    (pswR image = true →
      (∀ x ∈ [a, a + 4, a + 8, processPcbp a image + 64], x ≠ s.regs.isp ∧ ¬(x - s.regs.pcbp).toNat < 64) →
      ¬(s.regs.isp - s.regs.pcbp).toNat < 64 →
      ∃ w, exec .callps s = .next w ∧ switched 64 [.fp, .r0, .r2] w ∧
        wordAt w (s.regs.pcbp + 20) = s.regs.ap ∧ wordAt w (s.regs.pcbp + 24) = s.regs.fp ∧
        (∀ k, k < 9 → wordAt w (s.regs.pcbp + 28 + BitVec.ofNat 32 (4 * k)) = reg s (Reg.ofNum (BitVec.ofNat 4 k))) ∧
        w.regs.fp = s.regs.pcbp + 52 ∧ w.regs.r0 = processPcbp a image + 68 ∧
        w.regs.r2 = wordAt s (processPcbp a image + 64) ∧
        SameMachine { s with phase := .blockMoves .callps false, kernelForced := true } w)) ∧
  ∀ (s : State), s.bus = [] → isKernel s = true →
    let k := forceKernel true s
    (Unwritable k s.regs.isp → exec .callps s = .next (fault .interruptStack k)) ∧
    (Writable k s.regs.isp → ContextRefused s.regs.r0 k → ∃ t, exec .callps s = .next (fault .oldPcb t)) ∧
    (Writable k s.regs.isp → ContextGranted s.regs.r0 k → ContextUnreadable s.regs.r0 k →
      ∃ t, exec .callps s = .next (fault .newPcb t))

/-- RETPS at kernel level (46_operating_system R477, R478, R480): ISP goes down by 4 and the word there is the PCB, which
gives PSW (with its R), PC and SP. With R clear the instruction is over; with R set the block moves begin, r0 and r2 at
the first block: that the step ends there, the moves being steps of their own in the uninterrupted sequence, is log 17.
Nothing is written. What a memory exception raises (R471, R482): InterruptStack for the pop, with ISP moved, OldPcb for the
R of the PCB, NewPcb for the rest of it and for the size of the first block. -/
def Obligations.ReturnToProcess : Prop :=
  (∀ (s : State), s.Inv → s.phase = .running → Plain s → isKernel s = true → Aligned s.regs.isp →
    let a := wordAt s (s.regs.isp - 4)
    let image := wordAt s a
    Aligned a →
    let switched := fun (rs : List Reg) (r : Bool) (w : State) =>
      w.regs.psw = processPsw r 0x3B image ∧ w.regs.pc = wordAt s (a + 4) ∧ w.regs.sp = wordAt s (a + 8) ∧
        w.regs.pcbp = processPcbp a image ∧ w.regs.isp = s.regs.isp - 4 ∧
        OnlyRegs ([.psw, .pc, .sp, .pcbp, .isp] ++ rs) s w ∧ Flushed image s w ∧ SameMemory s w
    (pswR image = false → ∃ w, exec .retps s = .next (complete false w) ∧ switched [] false w ∧ SameMachine s w) ∧
    (pswR image = true → ∃ w, exec .retps s = .next w ∧ switched [.r0, .r2] true w ∧
      w.regs.r0 = processPcbp a image + 68 ∧ w.regs.r2 = wordAt s (processPcbp a image + 64) ∧
      SameMachine { s with phase := .blockMoves .retps false, kernelForced := true } w)) ∧
  ∀ (s : State), s.bus = [] → isKernel s = true →
    let k := forceKernel true (setReg .isp (s.regs.isp - 4) s)
    let faults := fun (x : Exn) => ∃ t, exec .retps s = .next (fault x t)
    (Unreadable k (s.regs.isp - 4) → exec .retps s = .next (fault .interruptStack k)) ∧
    ∀ a, memRead k .operandFetch .word (s.regs.isp - 4) = some a →
      (Unreadable k a → exec .retps s = .next (fault .oldPcb k)) ∧
      ∀ image, memRead k .operandFetch .word a = some image →
        (Unreadable k (a + 4) ∨ Unreadable k (a + 8) → faults .newPcb) ∧
        (¬Unreadable k (a + 4) → ¬Unreadable k (a + 8) → pswR image = true →
          Unreadable k (processPcbp a image + 64) → faults .newPcb)

/-- One step of the block moves (46_operating_system R478): a nonzero size is followed by the destination address; then
the words are copied; after the last the next size is read; a size 0 ends the moves: a call of a process or an
interrupt is then complete, and a return to a process first loads AP, FP and r0 to r8. That each of these is a step of its
own is the model's choice, log 17; that the end of an interrupt settles the flags for a read of %psw behind it is log 24. A
memory exception in any of them, or in the read of the first size, raises NewPcb
(R471, R482); that it leaves a late overflow trap pending in an interrupt and drops it in CALLPS and RETPS is log 25. -/
def Obligations.BlockMoveSteps : Prop :=
  (∀ (s : State) (o : Switch), s.Inv → Plain s → Aligned s.regs.r0 →
    (s.phase = .blockMoves o false → s.regs.r2 ≠ 0 →
      ∃ w, byPhase s = .next w ∧ w.regs.r1 = wordAt s s.regs.r0 ∧ w.regs.r0 = s.regs.r0 + 4 ∧
        OnlyRegs [.r0, .r1] s w ∧ SameMemory s w ∧ SameMachine { s with phase := .blockMoves o true } w) ∧
    (s.phase = .blockMoves o true → s.regs.r2 ≠ 0 → Aligned s.regs.r1 →
      ∃ w, byPhase s = .next w ∧ w.regs.r0 = s.regs.r0 + 4 ∧ w.regs.r1 = s.regs.r1 + 4 ∧
        w.regs.r2 = s.regs.r2 - 1 ∧ OnlyRegs [.r0, .r1, .r2] s w ∧
        WordsAt s.regs.r1 [wordAt s s.regs.r0] s w ∧ SameMachine s w) ∧
    (s.phase = .blockMoves o true → s.regs.r2 = 0 →
      ∃ w, byPhase s = .next w ∧ w.regs.r2 = wordAt s s.regs.r0 ∧ w.regs.r0 = s.regs.r0 + 4 ∧
        OnlyRegs [.r0, .r2] s w ∧ SameMemory s w ∧ SameMachine { s with phase := .blockMoves o false } w) ∧
    (s.phase = .blockMoves .callps false → s.regs.r2 = 0 →
      ∃ w, byPhase s = .next (complete false w) ∧ w.regs.r0 = s.regs.r0 + 4 ∧ OnlyRegs [.r0] s w ∧ SameMemory s w ∧
        SameMachine { s with phase := .running, kernelForced := false } w) ∧
    (s.phase = .blockMoves .interrupt false → s.regs.r2 = 0 →
      ∃ w, byPhase s = .next w ∧ w.regs.r0 = s.regs.r0 + 4 ∧ OnlyRegs [.r0] s w ∧ SameMemory s w ∧
        SameMachine { s with phase := .running, kernelForced := false, flagsAtStart := flags w } w) ∧
    (s.phase = .blockMoves .retps false → s.regs.r2 = 0 → pswR s.regs.psw = true → Aligned s.regs.pcbp →
      ∃ w, byPhase s = .next (complete false w) ∧ w.regs.ap = wordAt s (s.regs.pcbp + 20) ∧
        w.regs.fp = wordAt s (s.regs.pcbp + 24) ∧
        (∀ k, k < 9 → reg w (Reg.ofNum (BitVec.ofNat 4 k)) =
          wordAt s (s.regs.pcbp + 28 + BitVec.ofNat 32 (4 * k))) ∧
        (∀ r ∈ [Reg.psw, .sp, .pcbp, .isp, .pc], reg w r = reg s r) ∧ SameMemory s w ∧
        SameMachine { s with phase := .running, kernelForced := false } w)) ∧
  ∀ (s : State) (o : Switch), s.bus = [] →
    let stops := fun (t : State) => byPhase s = .next (if o = .interrupt then raise .newPcb t else fault .newPcb t)
    (s.phase = .blockMoves o false → s.regs.r2 ≠ 0 → Unreadable s s.regs.r0 → stops s) ∧
    (s.phase = .blockMoves o true → s.regs.r2 = 0 → Unreadable s s.regs.r0 → stops s) ∧
    (s.phase = .blockMoves o true → s.regs.r2 ≠ 0 →
      Unreadable s s.regs.r0 ∨ (¬Unreadable s s.regs.r0 ∧ Unwritable s s.regs.r1) → stops s) ∧
    (s.phase = .blockMoves .retps false → s.regs.r2 = 0 → pswR s.regs.psw = true →
      (∃ k ∈ registerPlaces, Unreadable s (pcbWord s k)) → ∃ t, byPhase s = .next (fault .newPcb t)) ∧
    (pswR s.regs.psw = true → Unreadable s (s.regs.pcbp + 64) → ∃ t, xswitchThree o s = .error (.newPcb, t))

/-- ENBVJMP and DISVJMP at kernel level set the addressing mode, empty the cache and go to r0; outside kernel level they
raise PrivilegedOpcode, nothing else changed (46_operating_system R484, R485); the jump empties the queue too (20_memory
R119). -/
def Obligations.VirtualModeJumps : Prop :=
  ∀ e ∈ [(Instr.enbvjmp, true), (.disvjmp, false)], ∀ s : State,
    (pswCm s.regs.psw = 0 →
      ∃ w, exec e.1 s = .next (complete false w) ∧ w.virtualMode = e.2 ∧
        Jumps [] s.regs.r0 { s with virtualMode := e.2, icache := [], iqueue := [], cacheCorrupt := false } w) ∧
    (pswCm s.regs.psw ≠ 0 → exec e.1 s = .next (fault .privilegedOpcode s))

/-- WAIT and INTACK at kernel level (46_operating_system R486, R487): WAIT, where no trap is due, halts behind itself;
INTACK puts 0 for a nonmaskable request, four times the byte of the acknowledge read for a level without AVEC, and any value
for one with AVEC in r0 (the spec's decision D21, log 23). A faulted acknowledge read raises ExternalMemory and changes
nothing, the spec's decision D28. That WAIT halts with the PC behind it is its decision D27, log 6; that a trap that is due,
the late overflow trap or the trace trap (60_exceptions R560), is taken instead, with the PC behind WAIT, so that the
machine does not wait, is log 37; after an explicit change of TE it traps or waits, log 31. -/
def Obligations.WaitAndInterruptAcknowledge : Prop :=
  ∀ s : State, isKernel s = true →
    (s.pendingOverflow = false → s.traceOpen = false → (pswTe s.regs.psw && pswTm s.regs.psw) = false →
      ∃ w, exec .wait s = .next w ∧ Advances [] 1 { s with phase := .waiting } w) ∧
    (s.pendingOverflow = true →
      ∃ w, exec .wait s = .next (raise .integerOverflow w) ∧ Advances [] 1 { s with pendingOverflow := false } w) ∧
    (s.pendingOverflow = false → s.traceOpen = false → (pswTe s.regs.psw && pswTm s.regs.psw) = true →
      ∃ w, exec .wait s = .next (raise .trace w) ∧ Advances [] 1 s w) ∧
    (s.pendingOverflow = false → s.traceOpen = true →
      (∃ w, exec .wait s = .next w ∧ Advances [] 1 { s with phase := .waiting, traceOpen := false } w) ∨
      ∃ w, exec .wait s = .next (raise .trace w) ∧ Advances [] 1 { s with traceOpen := false } w) ∧
    (s.pendingOverflow = true ∨ (s.traceOpen = false ∧ (pswTe s.regs.psw && pswTm s.regs.psw) = true) →
      ∃ t, exec .wait s = .next t ∧ t.phase ≠ .waiting) ∧
    (s.bus = [] →
      let answer := reply s .interruptAck .byte .read (acknowledgeAddress s) 0
      let puts := fun (v : Word) => ∃ w, exec .intack s = .next (complete false w) ∧ Advances [.r0] 2 s w ∧ w.regs.r0 = v
      (s.inputs.nmint = true → puts 0) ∧
      (s.inputs.nmint = false → s.inputs.avec = true → ∃ v, puts v) ∧
      (s.inputs.nmint = false → s.inputs.avec = false →
        (answer = none → puts (BitVec.ofNat 32 (4 * s.inputs.intId.toNat))) ∧
        (∀ x next, answer = some (.drive x next) → puts (BitVec.ofNat 32 (4 * (x.toNat % 256)))) ∧
        (answer = some .fault → exec .intack s = .next (fault .externalMemory s))))
end

