-- ==== Sys2Proof/Laws/State.lean ====
section
/-! SUPPORT. One lemma per field per update, true by rfl, so that no proof unfolds a record update; and the registers'
read-after-write. -/

namespace Sys2Proof.Machine

/-! ## setReg -/

@[simp] theorem setReg_virtualMode (r : Reg) (v : Word) (s : State) : (setReg r v s).virtualMode = s.virtualMode := rfl
@[simp] theorem setReg_kernelForced (r : Reg) (v : Word) (s : State) : (setReg r v s).kernelForced = s.kernelForced := rfl
@[simp] theorem setReg_icache (r : Reg) (v : Word) (s : State) : (setReg r v s).icache = s.icache := rfl
@[simp] theorem setReg_iqueue (r : Reg) (v : Word) (s : State) : (setReg r v s).iqueue = s.iqueue := rfl
@[simp] theorem setReg_cacheCorrupt (r : Reg) (v : Word) (s : State) : (setReg r v s).cacheCorrupt = s.cacheCorrupt := rfl
@[simp] theorem setReg_phase (r : Reg) (v : Word) (s : State) : (setReg r v s).phase = s.phase := rfl
@[simp] theorem setReg_discont (r : Reg) (v : Word) (s : State) : (setReg r v s).discont = s.discont := rfl
@[simp] theorem setReg_pendingOverflow (r : Reg) (v : Word) (s : State) : (setReg r v s).pendingOverflow = s.pendingOverflow := rfl
@[simp] theorem setReg_traceOpen (r : Reg) (v : Word) (s : State) : (setReg r v s).traceOpen = s.traceOpen := rfl
@[simp] theorem setReg_flagsAtStart (r : Reg) (v : Word) (s : State) : (setReg r v s).flagsAtStart = s.flagsAtStart := rfl
@[simp] theorem setReg_prevFlags (r : Reg) (v : Word) (s : State) : (setReg r v s).prevFlags = s.prevFlags := rfl
@[simp] theorem setReg_free (r : Reg) (v : Word) (s : State) : (setReg r v s).free = s.free := rfl
@[simp] theorem setReg_mem (r : Reg) (v : Word) (s : State) : (setReg r v s).mem = s.mem := rfl
@[simp] theorem setReg_inputs (r : Reg) (v : Word) (s : State) : (setReg r v s).inputs = s.inputs := rfl
@[simp] theorem setReg_upcoming (r : Reg) (v : Word) (s : State) : (setReg r v s).upcoming = s.upcoming := rfl
@[simp] theorem setReg_bus (r : Reg) (v : Word) (s : State) : (setReg r v s).bus = s.bus := rfl
@[simp] theorem setReg_copBus (r : Reg) (v : Word) (s : State) : (setReg r v s).copBus = s.copBus := rfl

/-! ## setPsw -/

@[simp] theorem setPsw_virtualMode (v : Word) (s : State) : (setPsw v s).virtualMode = s.virtualMode := rfl
@[simp] theorem setPsw_kernelForced (v : Word) (s : State) : (setPsw v s).kernelForced = s.kernelForced := rfl
@[simp] theorem setPsw_icache (v : Word) (s : State) : (setPsw v s).icache = s.icache := rfl
@[simp] theorem setPsw_iqueue (v : Word) (s : State) : (setPsw v s).iqueue = s.iqueue := rfl
@[simp] theorem setPsw_cacheCorrupt (v : Word) (s : State) : (setPsw v s).cacheCorrupt = s.cacheCorrupt := rfl
@[simp] theorem setPsw_phase (v : Word) (s : State) : (setPsw v s).phase = s.phase := rfl
@[simp] theorem setPsw_discont (v : Word) (s : State) : (setPsw v s).discont = s.discont := rfl
@[simp] theorem setPsw_pendingOverflow (v : Word) (s : State) : (setPsw v s).pendingOverflow = s.pendingOverflow := rfl
@[simp] theorem setPsw_traceOpen (v : Word) (s : State) : (setPsw v s).traceOpen = s.traceOpen := rfl
@[simp] theorem setPsw_flagsAtStart (v : Word) (s : State) : (setPsw v s).flagsAtStart = s.flagsAtStart := rfl
@[simp] theorem setPsw_prevFlags (v : Word) (s : State) : (setPsw v s).prevFlags = s.prevFlags := rfl
@[simp] theorem setPsw_free (v : Word) (s : State) : (setPsw v s).free = s.free := rfl
@[simp] theorem setPsw_mem (v : Word) (s : State) : (setPsw v s).mem = s.mem := rfl
@[simp] theorem setPsw_inputs (v : Word) (s : State) : (setPsw v s).inputs = s.inputs := rfl
@[simp] theorem setPsw_upcoming (v : Word) (s : State) : (setPsw v s).upcoming = s.upcoming := rfl
@[simp] theorem setPsw_bus (v : Word) (s : State) : (setPsw v s).bus = s.bus := rfl
@[simp] theorem setPsw_copBus (v : Word) (s : State) : (setPsw v s).copBus = s.copBus := rfl

/-! ## setFlags -/

@[simp] theorem setFlags_virtualMode (f : BitVec 4) (s : State) : (setFlags f s).virtualMode = s.virtualMode := rfl
@[simp] theorem setFlags_kernelForced (f : BitVec 4) (s : State) : (setFlags f s).kernelForced = s.kernelForced := rfl
@[simp] theorem setFlags_icache (f : BitVec 4) (s : State) : (setFlags f s).icache = s.icache := rfl
@[simp] theorem setFlags_iqueue (f : BitVec 4) (s : State) : (setFlags f s).iqueue = s.iqueue := rfl
@[simp] theorem setFlags_cacheCorrupt (f : BitVec 4) (s : State) : (setFlags f s).cacheCorrupt = s.cacheCorrupt := rfl
@[simp] theorem setFlags_phase (f : BitVec 4) (s : State) : (setFlags f s).phase = s.phase := rfl
@[simp] theorem setFlags_discont (f : BitVec 4) (s : State) : (setFlags f s).discont = s.discont := rfl
@[simp] theorem setFlags_pendingOverflow (f : BitVec 4) (s : State) : (setFlags f s).pendingOverflow = s.pendingOverflow := rfl
@[simp] theorem setFlags_traceOpen (f : BitVec 4) (s : State) : (setFlags f s).traceOpen = s.traceOpen := rfl
@[simp] theorem setFlags_flagsAtStart (f : BitVec 4) (s : State) : (setFlags f s).flagsAtStart = s.flagsAtStart := rfl
@[simp] theorem setFlags_prevFlags (f : BitVec 4) (s : State) : (setFlags f s).prevFlags = s.prevFlags := rfl
@[simp] theorem setFlags_free (f : BitVec 4) (s : State) : (setFlags f s).free = s.free := rfl
@[simp] theorem setFlags_mem (f : BitVec 4) (s : State) : (setFlags f s).mem = s.mem := rfl
@[simp] theorem setFlags_inputs (f : BitVec 4) (s : State) : (setFlags f s).inputs = s.inputs := rfl
@[simp] theorem setFlags_upcoming (f : BitVec 4) (s : State) : (setFlags f s).upcoming = s.upcoming := rfl
@[simp] theorem setFlags_bus (f : BitVec 4) (s : State) : (setFlags f s).bus = s.bus := rfl
@[simp] theorem setFlags_copBus (f : BitVec 4) (s : State) : (setFlags f s).copBus = s.copBus := rfl

/-! ## setCodes -/

@[simp] theorem setCodes_virtualMode (isc : BitVec 4) (tm : Bool) (et : BitVec 2) (s : State) : (setCodes isc tm et s).virtualMode = s.virtualMode := rfl
@[simp] theorem setCodes_kernelForced (isc : BitVec 4) (tm : Bool) (et : BitVec 2) (s : State) : (setCodes isc tm et s).kernelForced = s.kernelForced := rfl
@[simp] theorem setCodes_icache (isc : BitVec 4) (tm : Bool) (et : BitVec 2) (s : State) : (setCodes isc tm et s).icache = s.icache := rfl
@[simp] theorem setCodes_iqueue (isc : BitVec 4) (tm : Bool) (et : BitVec 2) (s : State) : (setCodes isc tm et s).iqueue = s.iqueue := rfl
@[simp] theorem setCodes_cacheCorrupt (isc : BitVec 4) (tm : Bool) (et : BitVec 2) (s : State) : (setCodes isc tm et s).cacheCorrupt = s.cacheCorrupt := rfl
@[simp] theorem setCodes_phase (isc : BitVec 4) (tm : Bool) (et : BitVec 2) (s : State) : (setCodes isc tm et s).phase = s.phase := rfl
@[simp] theorem setCodes_discont (isc : BitVec 4) (tm : Bool) (et : BitVec 2) (s : State) : (setCodes isc tm et s).discont = s.discont := rfl
@[simp] theorem setCodes_pendingOverflow (isc : BitVec 4) (tm : Bool) (et : BitVec 2) (s : State) : (setCodes isc tm et s).pendingOverflow = s.pendingOverflow := rfl
@[simp] theorem setCodes_traceOpen (isc : BitVec 4) (tm : Bool) (et : BitVec 2) (s : State) : (setCodes isc tm et s).traceOpen = s.traceOpen := rfl
@[simp] theorem setCodes_flagsAtStart (isc : BitVec 4) (tm : Bool) (et : BitVec 2) (s : State) : (setCodes isc tm et s).flagsAtStart = s.flagsAtStart := rfl
@[simp] theorem setCodes_prevFlags (isc : BitVec 4) (tm : Bool) (et : BitVec 2) (s : State) : (setCodes isc tm et s).prevFlags = s.prevFlags := rfl
@[simp] theorem setCodes_free (isc : BitVec 4) (tm : Bool) (et : BitVec 2) (s : State) : (setCodes isc tm et s).free = s.free := rfl
@[simp] theorem setCodes_mem (isc : BitVec 4) (tm : Bool) (et : BitVec 2) (s : State) : (setCodes isc tm et s).mem = s.mem := rfl
@[simp] theorem setCodes_inputs (isc : BitVec 4) (tm : Bool) (et : BitVec 2) (s : State) : (setCodes isc tm et s).inputs = s.inputs := rfl
@[simp] theorem setCodes_upcoming (isc : BitVec 4) (tm : Bool) (et : BitVec 2) (s : State) : (setCodes isc tm et s).upcoming = s.upcoming := rfl
@[simp] theorem setCodes_bus (isc : BitVec 4) (tm : Bool) (et : BitVec 2) (s : State) : (setCodes isc tm et s).bus = s.bus := rfl
@[simp] theorem setCodes_copBus (isc : BitVec 4) (tm : Bool) (et : BitVec 2) (s : State) : (setCodes isc tm et s).copBus = s.copBus := rfl

/-! ## recordCause -/

@[simp] theorem recordCause_virtualMode (e : Exn) (s : State) : (recordCause e s).virtualMode = s.virtualMode := rfl
@[simp] theorem recordCause_kernelForced (e : Exn) (s : State) : (recordCause e s).kernelForced = s.kernelForced := rfl
@[simp] theorem recordCause_icache (e : Exn) (s : State) : (recordCause e s).icache = s.icache := rfl
@[simp] theorem recordCause_iqueue (e : Exn) (s : State) : (recordCause e s).iqueue = s.iqueue := rfl
@[simp] theorem recordCause_cacheCorrupt (e : Exn) (s : State) : (recordCause e s).cacheCorrupt = s.cacheCorrupt := rfl
@[simp] theorem recordCause_phase (e : Exn) (s : State) : (recordCause e s).phase = s.phase := rfl
@[simp] theorem recordCause_discont (e : Exn) (s : State) : (recordCause e s).discont = s.discont := rfl
@[simp] theorem recordCause_pendingOverflow (e : Exn) (s : State) : (recordCause e s).pendingOverflow = s.pendingOverflow := rfl
@[simp] theorem recordCause_traceOpen (e : Exn) (s : State) : (recordCause e s).traceOpen = s.traceOpen := rfl
@[simp] theorem recordCause_flagsAtStart (e : Exn) (s : State) : (recordCause e s).flagsAtStart = s.flagsAtStart := rfl
@[simp] theorem recordCause_prevFlags (e : Exn) (s : State) : (recordCause e s).prevFlags = s.prevFlags := rfl
@[simp] theorem recordCause_free (e : Exn) (s : State) : (recordCause e s).free = s.free := rfl
@[simp] theorem recordCause_mem (e : Exn) (s : State) : (recordCause e s).mem = s.mem := rfl
@[simp] theorem recordCause_inputs (e : Exn) (s : State) : (recordCause e s).inputs = s.inputs := rfl
@[simp] theorem recordCause_upcoming (e : Exn) (s : State) : (recordCause e s).upcoming = s.upcoming := rfl
@[simp] theorem recordCause_bus (e : Exn) (s : State) : (recordCause e s).bus = s.bus := rfl
@[simp] theorem recordCause_copBus (e : Exn) (s : State) : (recordCause e s).copBus = s.copBus := rfl

/-! ## forceKernel -/

@[simp] theorem forceKernel_regs (b : Bool) (s : State) : (forceKernel b s).regs = s.regs := rfl
@[simp] theorem forceKernel_virtualMode (b : Bool) (s : State) : (forceKernel b s).virtualMode = s.virtualMode := rfl
@[simp] theorem forceKernel_icache (b : Bool) (s : State) : (forceKernel b s).icache = s.icache := rfl
@[simp] theorem forceKernel_iqueue (b : Bool) (s : State) : (forceKernel b s).iqueue = s.iqueue := rfl
@[simp] theorem forceKernel_cacheCorrupt (b : Bool) (s : State) : (forceKernel b s).cacheCorrupt = s.cacheCorrupt := rfl
@[simp] theorem forceKernel_phase (b : Bool) (s : State) : (forceKernel b s).phase = s.phase := rfl
@[simp] theorem forceKernel_discont (b : Bool) (s : State) : (forceKernel b s).discont = s.discont := rfl
@[simp] theorem forceKernel_pendingOverflow (b : Bool) (s : State) : (forceKernel b s).pendingOverflow = s.pendingOverflow := rfl
@[simp] theorem forceKernel_traceOpen (b : Bool) (s : State) : (forceKernel b s).traceOpen = s.traceOpen := rfl
@[simp] theorem forceKernel_flagsAtStart (b : Bool) (s : State) : (forceKernel b s).flagsAtStart = s.flagsAtStart := rfl
@[simp] theorem forceKernel_prevFlags (b : Bool) (s : State) : (forceKernel b s).prevFlags = s.prevFlags := rfl
@[simp] theorem forceKernel_free (b : Bool) (s : State) : (forceKernel b s).free = s.free := rfl
@[simp] theorem forceKernel_mem (b : Bool) (s : State) : (forceKernel b s).mem = s.mem := rfl
@[simp] theorem forceKernel_inputs (b : Bool) (s : State) : (forceKernel b s).inputs = s.inputs := rfl
@[simp] theorem forceKernel_upcoming (b : Bool) (s : State) : (forceKernel b s).upcoming = s.upcoming := rfl
@[simp] theorem forceKernel_bus (b : Bool) (s : State) : (forceKernel b s).bus = s.bus := rfl
@[simp] theorem forceKernel_copBus (b : Bool) (s : State) : (forceKernel b s).copBus = s.copBus := rfl

/-! ## flushCache -/

@[simp] theorem flushCache_regs (s : State) : (flushCache s).regs = s.regs := rfl
@[simp] theorem flushCache_virtualMode (s : State) : (flushCache s).virtualMode = s.virtualMode := rfl
@[simp] theorem flushCache_kernelForced (s : State) : (flushCache s).kernelForced = s.kernelForced := rfl
@[simp] theorem flushCache_phase (s : State) : (flushCache s).phase = s.phase := rfl
@[simp] theorem flushCache_discont (s : State) : (flushCache s).discont = s.discont := rfl
@[simp] theorem flushCache_pendingOverflow (s : State) : (flushCache s).pendingOverflow = s.pendingOverflow := rfl
@[simp] theorem flushCache_traceOpen (s : State) : (flushCache s).traceOpen = s.traceOpen := rfl
@[simp] theorem flushCache_flagsAtStart (s : State) : (flushCache s).flagsAtStart = s.flagsAtStart := rfl
@[simp] theorem flushCache_prevFlags (s : State) : (flushCache s).prevFlags = s.prevFlags := rfl
@[simp] theorem flushCache_free (s : State) : (flushCache s).free = s.free := rfl
@[simp] theorem flushCache_mem (s : State) : (flushCache s).mem = s.mem := rfl
@[simp] theorem flushCache_inputs (s : State) : (flushCache s).inputs = s.inputs := rfl
@[simp] theorem flushCache_upcoming (s : State) : (flushCache s).upcoming = s.upcoming := rfl
@[simp] theorem flushCache_bus (s : State) : (flushCache s).bus = s.bus := rfl
@[simp] theorem flushCache_copBus (s : State) : (flushCache s).copBus = s.copBus := rfl

/-! ## jumped -/

@[simp] theorem jumped_regs (s : State) : (jumped s).regs = s.regs := rfl
@[simp] theorem jumped_virtualMode (s : State) : (jumped s).virtualMode = s.virtualMode := rfl
@[simp] theorem jumped_kernelForced (s : State) : (jumped s).kernelForced = s.kernelForced := rfl
@[simp] theorem jumped_icache (s : State) : (jumped s).icache = s.icache := rfl
@[simp] theorem jumped_cacheCorrupt (s : State) : (jumped s).cacheCorrupt = s.cacheCorrupt := rfl
@[simp] theorem jumped_phase (s : State) : (jumped s).phase = s.phase := rfl
@[simp] theorem jumped_pendingOverflow (s : State) : (jumped s).pendingOverflow = s.pendingOverflow := rfl
@[simp] theorem jumped_traceOpen (s : State) : (jumped s).traceOpen = s.traceOpen := rfl
@[simp] theorem jumped_flagsAtStart (s : State) : (jumped s).flagsAtStart = s.flagsAtStart := rfl
@[simp] theorem jumped_prevFlags (s : State) : (jumped s).prevFlags = s.prevFlags := rfl
@[simp] theorem jumped_free (s : State) : (jumped s).free = s.free := rfl
@[simp] theorem jumped_mem (s : State) : (jumped s).mem = s.mem := rfl
@[simp] theorem jumped_inputs (s : State) : (jumped s).inputs = s.inputs := rfl
@[simp] theorem jumped_upcoming (s : State) : (jumped s).upcoming = s.upcoming := rfl
@[simp] theorem jumped_bus (s : State) : (jumped s).bus = s.bus := rfl
@[simp] theorem jumped_copBus (s : State) : (jumped s).copBus = s.copBus := rfl

/-! ## jump -/

@[simp] theorem jump_virtualMode (t : Word) (s : State) : (jump t s).virtualMode = s.virtualMode := rfl
@[simp] theorem jump_kernelForced (t : Word) (s : State) : (jump t s).kernelForced = s.kernelForced := rfl
@[simp] theorem jump_icache (t : Word) (s : State) : (jump t s).icache = s.icache := rfl
@[simp] theorem jump_cacheCorrupt (t : Word) (s : State) : (jump t s).cacheCorrupt = s.cacheCorrupt := rfl
@[simp] theorem jump_phase (t : Word) (s : State) : (jump t s).phase = s.phase := rfl
@[simp] theorem jump_pendingOverflow (t : Word) (s : State) : (jump t s).pendingOverflow = s.pendingOverflow := rfl
@[simp] theorem jump_traceOpen (t : Word) (s : State) : (jump t s).traceOpen = s.traceOpen := rfl
@[simp] theorem jump_flagsAtStart (t : Word) (s : State) : (jump t s).flagsAtStart = s.flagsAtStart := rfl
@[simp] theorem jump_prevFlags (t : Word) (s : State) : (jump t s).prevFlags = s.prevFlags := rfl
@[simp] theorem jump_free (t : Word) (s : State) : (jump t s).free = s.free := rfl
@[simp] theorem jump_mem (t : Word) (s : State) : (jump t s).mem = s.mem := rfl
@[simp] theorem jump_inputs (t : Word) (s : State) : (jump t s).inputs = s.inputs := rfl
@[simp] theorem jump_upcoming (t : Word) (s : State) : (jump t s).upcoming = s.upcoming := rfl
@[simp] theorem jump_bus (t : Word) (s : State) : (jump t s).bus = s.bus := rfl
@[simp] theorem jump_copBus (t : Word) (s : State) : (jump t s).copBus = s.copBus := rfl

/-! ## advance -/

@[simp] theorem advance_virtualMode (len : Nat) (s : State) : (advance len s).virtualMode = s.virtualMode := rfl
@[simp] theorem advance_kernelForced (len : Nat) (s : State) : (advance len s).kernelForced = s.kernelForced := rfl
@[simp] theorem advance_icache (len : Nat) (s : State) : (advance len s).icache = s.icache := rfl
@[simp] theorem advance_iqueue (len : Nat) (s : State) : (advance len s).iqueue = s.iqueue := rfl
@[simp] theorem advance_cacheCorrupt (len : Nat) (s : State) : (advance len s).cacheCorrupt = s.cacheCorrupt := rfl
@[simp] theorem advance_phase (len : Nat) (s : State) : (advance len s).phase = s.phase := rfl
@[simp] theorem advance_pendingOverflow (len : Nat) (s : State) : (advance len s).pendingOverflow = s.pendingOverflow := rfl
@[simp] theorem advance_traceOpen (len : Nat) (s : State) : (advance len s).traceOpen = s.traceOpen := rfl
@[simp] theorem advance_flagsAtStart (len : Nat) (s : State) : (advance len s).flagsAtStart = s.flagsAtStart := rfl
@[simp] theorem advance_prevFlags (len : Nat) (s : State) : (advance len s).prevFlags = s.prevFlags := rfl
@[simp] theorem advance_free (len : Nat) (s : State) : (advance len s).free = s.free := rfl
@[simp] theorem advance_mem (len : Nat) (s : State) : (advance len s).mem = s.mem := rfl
@[simp] theorem advance_inputs (len : Nat) (s : State) : (advance len s).inputs = s.inputs := rfl
@[simp] theorem advance_upcoming (len : Nat) (s : State) : (advance len s).upcoming = s.upcoming := rfl
@[simp] theorem advance_bus (len : Nat) (s : State) : (advance len s).bus = s.bus := rfl
@[simp] theorem advance_copBus (len : Nat) (s : State) : (advance len s).copBus = s.copBus := rfl

/-! ## forgetRegisters -/

@[simp] theorem forgetRegisters_virtualMode (s : State) : (forgetRegisters s).virtualMode = s.virtualMode := rfl
@[simp] theorem forgetRegisters_kernelForced (s : State) : (forgetRegisters s).kernelForced = s.kernelForced := rfl
@[simp] theorem forgetRegisters_icache (s : State) : (forgetRegisters s).icache = s.icache := rfl
@[simp] theorem forgetRegisters_iqueue (s : State) : (forgetRegisters s).iqueue = s.iqueue := rfl
@[simp] theorem forgetRegisters_cacheCorrupt (s : State) : (forgetRegisters s).cacheCorrupt = s.cacheCorrupt := rfl
@[simp] theorem forgetRegisters_phase (s : State) : (forgetRegisters s).phase = s.phase := rfl
@[simp] theorem forgetRegisters_discont (s : State) : (forgetRegisters s).discont = s.discont := rfl
@[simp] theorem forgetRegisters_pendingOverflow (s : State) : (forgetRegisters s).pendingOverflow = s.pendingOverflow := rfl
@[simp] theorem forgetRegisters_traceOpen (s : State) : (forgetRegisters s).traceOpen = s.traceOpen := rfl
@[simp] theorem forgetRegisters_flagsAtStart (s : State) : (forgetRegisters s).flagsAtStart = s.flagsAtStart := rfl
@[simp] theorem forgetRegisters_prevFlags (s : State) : (forgetRegisters s).prevFlags = s.prevFlags := rfl
@[simp] theorem forgetRegisters_free (s : State) : (forgetRegisters s).free = s.free := rfl
@[simp] theorem forgetRegisters_mem (s : State) : (forgetRegisters s).mem = s.mem := rfl
@[simp] theorem forgetRegisters_inputs (s : State) : (forgetRegisters s).inputs = s.inputs := rfl
@[simp] theorem forgetRegisters_upcoming (s : State) : (forgetRegisters s).upcoming = s.upcoming := rfl
@[simp] theorem forgetRegisters_bus (s : State) : (forgetRegisters s).bus = s.bus := rfl
@[simp] theorem forgetRegisters_copBus (s : State) : (forgetRegisters s).copBus = s.copBus := rfl

/-! ## keepQueue -/

@[simp] theorem keepQueue_regs (len : Nat) (held : Words) (s : State) : (keepQueue len held s).regs = s.regs := rfl
@[simp] theorem keepQueue_virtualMode (len : Nat) (held : Words) (s : State) : (keepQueue len held s).virtualMode = s.virtualMode := rfl
@[simp] theorem keepQueue_kernelForced (len : Nat) (held : Words) (s : State) : (keepQueue len held s).kernelForced = s.kernelForced := rfl
@[simp] theorem keepQueue_icache (len : Nat) (held : Words) (s : State) : (keepQueue len held s).icache = s.icache := rfl
@[simp] theorem keepQueue_cacheCorrupt (len : Nat) (held : Words) (s : State) : (keepQueue len held s).cacheCorrupt = s.cacheCorrupt := rfl
@[simp] theorem keepQueue_phase (len : Nat) (held : Words) (s : State) : (keepQueue len held s).phase = s.phase := rfl
@[simp] theorem keepQueue_discont (len : Nat) (held : Words) (s : State) : (keepQueue len held s).discont = s.discont := rfl
@[simp] theorem keepQueue_pendingOverflow (len : Nat) (held : Words) (s : State) : (keepQueue len held s).pendingOverflow = s.pendingOverflow := rfl
@[simp] theorem keepQueue_traceOpen (len : Nat) (held : Words) (s : State) : (keepQueue len held s).traceOpen = s.traceOpen := rfl
@[simp] theorem keepQueue_flagsAtStart (len : Nat) (held : Words) (s : State) : (keepQueue len held s).flagsAtStart = s.flagsAtStart := rfl
@[simp] theorem keepQueue_prevFlags (len : Nat) (held : Words) (s : State) : (keepQueue len held s).prevFlags = s.prevFlags := rfl
@[simp] theorem keepQueue_free (len : Nat) (held : Words) (s : State) : (keepQueue len held s).free = s.free := rfl
@[simp] theorem keepQueue_mem (len : Nat) (held : Words) (s : State) : (keepQueue len held s).mem = s.mem := rfl
@[simp] theorem keepQueue_inputs (len : Nat) (held : Words) (s : State) : (keepQueue len held s).inputs = s.inputs := rfl
@[simp] theorem keepQueue_upcoming (len : Nat) (held : Words) (s : State) : (keepQueue len held s).upcoming = s.upcoming := rfl
@[simp] theorem keepQueue_bus (len : Nat) (held : Words) (s : State) : (keepQueue len held s).bus = s.bus := rfl
@[simp] theorem keepQueue_copBus (len : Nat) (held : Words) (s : State) : (keepQueue len held s).copBus = s.copBus := rfl

/-! ## settle -/

@[simp] theorem settle_regs (s : State) : (settle s).regs = s.regs := rfl
@[simp] theorem settle_virtualMode (s : State) : (settle s).virtualMode = s.virtualMode := rfl
@[simp] theorem settle_icache (s : State) : (settle s).icache = s.icache := rfl
@[simp] theorem settle_cacheCorrupt (s : State) : (settle s).cacheCorrupt = s.cacheCorrupt := rfl
@[simp] theorem settle_pendingOverflow (s : State) : (settle s).pendingOverflow = s.pendingOverflow := rfl
@[simp] theorem settle_traceOpen (s : State) : (settle s).traceOpen = s.traceOpen := rfl
@[simp] theorem settle_prevFlags (s : State) : (settle s).prevFlags = s.prevFlags := rfl
@[simp] theorem settle_free (s : State) : (settle s).free = s.free := rfl
@[simp] theorem settle_mem (s : State) : (settle s).mem = s.mem := rfl
@[simp] theorem settle_inputs (s : State) : (settle s).inputs = s.inputs := rfl
@[simp] theorem settle_upcoming (s : State) : (settle s).upcoming = s.upcoming := rfl
@[simp] theorem settle_bus (s : State) : (settle s).bus = s.bus := rfl
@[simp] theorem settle_copBus (s : State) : (settle s).copBus = s.copBus := rfl

/-! ## beginInstruction -/

@[simp] theorem beginInstruction_virtualMode (s : State) : (beginInstruction s).virtualMode = s.virtualMode := rfl
@[simp] theorem beginInstruction_kernelForced (s : State) : (beginInstruction s).kernelForced = s.kernelForced := rfl
@[simp] theorem beginInstruction_icache (s : State) : (beginInstruction s).icache = s.icache := rfl
@[simp] theorem beginInstruction_iqueue (s : State) : (beginInstruction s).iqueue = s.iqueue := rfl
@[simp] theorem beginInstruction_cacheCorrupt (s : State) : (beginInstruction s).cacheCorrupt = s.cacheCorrupt := rfl
@[simp] theorem beginInstruction_phase (s : State) : (beginInstruction s).phase = s.phase := rfl
@[simp] theorem beginInstruction_discont (s : State) : (beginInstruction s).discont = s.discont := rfl
@[simp] theorem beginInstruction_pendingOverflow (s : State) : (beginInstruction s).pendingOverflow = s.pendingOverflow := rfl
@[simp] theorem beginInstruction_traceOpen (s : State) : (beginInstruction s).traceOpen = s.traceOpen := rfl
@[simp] theorem beginInstruction_free (s : State) : (beginInstruction s).free = s.free := rfl
@[simp] theorem beginInstruction_mem (s : State) : (beginInstruction s).mem = s.mem := rfl
@[simp] theorem beginInstruction_inputs (s : State) : (beginInstruction s).inputs = s.inputs := rfl
@[simp] theorem beginInstruction_upcoming (s : State) : (beginInstruction s).upcoming = s.upcoming := rfl
@[simp] theorem beginInstruction_bus (s : State) : (beginInstruction s).bus = s.bus := rfl
@[simp] theorem beginInstruction_copBus (s : State) : (beginInstruction s).copBus = s.copBus := rfl

/-! ## The updated fields -/

@[simp] theorem forceKernel_kernelForced (b : Bool) (s : State) : (forceKernel b s).kernelForced = b := rfl
@[simp] theorem flushCache_icache (s : State) : (flushCache s).icache = [] := rfl
@[simp] theorem flushCache_iqueue (s : State) : (flushCache s).iqueue = [] := rfl
@[simp] theorem flushCache_cacheCorrupt (s : State) : (flushCache s).cacheCorrupt = false := rfl
@[simp] theorem jumped_discont (s : State) : (jumped s).discont = true := rfl
@[simp] theorem jumped_iqueue (s : State) : (jumped s).iqueue = [] := rfl
@[simp] theorem jump_discont (t : Word) (s : State) : (jump t s).discont = true := rfl
@[simp] theorem jump_iqueue (t : Word) (s : State) : (jump t s).iqueue = [] := rfl
@[simp] theorem advance_discont (len : Nat) (s : State) : (advance len s).discont = false := rfl
@[simp] theorem settle_discont (s : State) : (settle s).discont = true := rfl
@[simp] theorem settle_iqueue (s : State) : (settle s).iqueue = [] := rfl
@[simp] theorem settle_phase (s : State) : (settle s).phase = .running := rfl
@[simp] theorem settle_kernelForced (s : State) : (settle s).kernelForced = false := rfl
@[simp] theorem settle_flagsAtStart (s : State) : (settle s).flagsAtStart = flags s := rfl
@[simp] theorem jump_pc (t : Word) (s : State) : (jump t s).regs.pc = t := rfl
@[simp] theorem advance_pc (len : Nat) (s : State) : (advance len s).regs.pc = s.regs.pc + BitVec.ofNat 32 len := rfl
@[simp] theorem setPsw_psw (v : Word) (s : State) : (setPsw v s).regs.psw = v &&& maskPsw := rfl
@[simp] theorem forgetRegisters_psw (s : State) : (forgetRegisters s).regs.psw = s.regs.psw := rfl
@[simp] theorem forgetRegisters_pc (s : State) : (forgetRegisters s).regs.pc = s.regs.pc := rfl
@[simp] theorem forgetRegisters_sp (s : State) : (forgetRegisters s).regs.sp = s.regs.sp := rfl
@[simp] theorem forgetRegisters_pcbp (s : State) : (forgetRegisters s).regs.pcbp = s.regs.pcbp := rfl
@[simp] theorem jump_psw (t : Word) (s : State) : (jump t s).regs.psw = s.regs.psw := rfl
@[simp] theorem advance_psw (len : Nat) (s : State) : (advance len s).regs.psw = s.regs.psw := rfl

/-! ## Registers -/

/-- A register that was written reads as written; the others as before. -/
theorem readReg_writeReg (r r' : Reg) (v : Word) (g : Regs) :
    readReg r' (writeReg r v g) = if r' = r then v else readReg r' g := by
  cases r <;> cases r' <;> rfl

/-- Reading after setReg: bits 31:26 of the PSW stay 0 (10_state R48). -/
theorem reg_setReg (r r' : Reg) (v : Word) (s : State) :
    reg (setReg r v s) r' = if r' = r then (if r = .psw then v &&& maskPsw else v) else reg s r' := by
  simp only [reg, setReg, readReg_writeReg]

/-- A register that was not written. -/
theorem reg_setReg_ne {r r' : Reg} (h : r' ≠ r) (v : Word) (s : State) : reg (setReg r v s) r' = reg s r' := by
  rw [reg_setReg, if_neg h]

/-- The register that was written, if it is not the PSW. -/
theorem reg_setReg_self {r : Reg} (h : r ≠ .psw) (v : Word) (s : State) : reg (setReg r v s) r = v := by
  rw [reg_setReg, if_pos rfl, if_neg h]

/-- The PSW after a register write. -/
theorem psw_setReg (r : Reg) (v : Word) (s : State) :
    (setReg r v s).regs.psw = if r = .psw then v &&& maskPsw else s.regs.psw := by
  cases r <;> rfl

/-- The PC after a register write. -/
theorem pc_setReg (r : Reg) (v : Word) (s : State) : (setReg r v s).regs.pc = if r = .pc then v else s.regs.pc := by
  cases r <;> rfl

/-- A jump writes the PC only. -/
theorem reg_jump (r : Reg) (t : Word) (s : State) : reg (jump t s) r = if r = .pc then t else reg s r := by
  cases r <;> rfl

/-- Going on writes the PC only. -/
theorem reg_advance (r : Reg) (len : Nat) (s : State) :
    reg (advance len s) r = if r = .pc then s.regs.pc + BitVec.ofNat 32 len else reg s r := by
  cases r <;> rfl

/-- Setting the PSW writes the PSW only. -/
theorem reg_setPsw (r : Reg) (v : Word) (s : State) : reg (setPsw v s) r = if r = .psw then v &&& maskPsw else reg s r := by
  cases r <;> rfl

/-- Setting the flags writes the PSW only. -/
theorem reg_setFlags_ne {r : Reg} (h : r ≠ .psw) (f : BitVec 4) (s : State) : reg (setFlags f s) r = reg s r := by
  rw [setFlags, reg_setPsw, if_neg h]

end Sys2Proof.Machine
end

