-- ==== Sys2Proof/Laws/Memory.lean ====
section
/-! SUPPORT. The laws of memory: what a byte reads as after a store, the canonical form, and which bytes a datum covers. -/

namespace Sys2Proof.Machine

/-- No bytes are of no word. -/
@[simp] theorem cachedWords_nil : cachedWords [] = [] := rfl

/-! ## One byte -/

/-- Below the first listed address everything reads 0. -/
theorem byteAt_below {m : Memory} {lo a : Nat} (h : wfFrom lo m = true) (ha : a < lo) : byteAt m a = 0 := by
  cases m with
  | nil => rfl
  | cons c rest =>
    obtain ⟨k, b⟩ := c
    simp only [wfFrom, Bool.and_eq_true, decide_eq_true_eq] at h
    have : a < k := by omega
    simp only [byteAt, if_neg (by omega : ¬a = k), if_pos this]

/-- What a byte reads as after a store, in a memory in canonical form. -/
theorem byteAt_setByte_wf {m : Memory} {lo : Nat} (h : wfFrom lo m = true) (a x : Nat) (v : Byte) :
    byteAt (setByte m a v) x = if x = a then v else byteAt m x := by
  induction m generalizing lo with
  | nil =>
    simp only [setByte]
    split
    · rename_i hv; subst hv; by_cases hx : x = a <;> simp [byteAt, hx]
    · by_cases hx : x = a <;> simp [byteAt, hx]
  | cons c rest ih =>
    obtain ⟨k, b⟩ := c
    simp only [wfFrom, Bool.and_eq_true, decide_eq_true_eq] at h
    obtain ⟨_, hr⟩ := h
    simp only [setByte]
    split
    · rename_i hak
      split
      · rename_i hv
        subst hv
        by_cases hx : x = a
        · subst hx; simp [byteAt, hak, Nat.ne_of_lt hak]
        · simp [hx]
      · by_cases hx : x = a
        · subst hx; simp [byteAt]
        · simp only [byteAt, if_neg hx]
          by_cases hlt : x < a
          · simp [hlt, show ¬x = k by omega, show x < k by omega]
          · simp [hlt]
    · rename_i hak
      split
      · rename_i hk
        subst hk
        split
        · rename_i hv
          subst hv
          by_cases hx : x = a
          · subst hx; simp [byteAt_below hr]
          · simp only [byteAt, if_neg hx]
            by_cases hlt : x < a
            · simp [hlt, byteAt_below hr (Nat.lt_succ_of_lt hlt)]
            · simp [hlt]
        · by_cases hx : x = a
          · subst hx; simp [byteAt]
          · simp [byteAt, hx]
      · rename_i hk
        simp only [byteAt]
        by_cases hxk : x = k
        · subst hxk; simp [Ne.symm hk]
        · simp only [if_neg hxk]
          by_cases hlt : x < k
          · simp [hlt, show ¬x = a by omega]
          · simp only [if_neg hlt]
            exact ih hr

/-- A store keeps the canonical form, from any bound not above the address. -/
theorem wfFrom_setByte {m : Memory} {lo : Nat} (h : wfFrom lo m = true) {a : Nat} (hlo : lo ≤ a) (ha : a < 2 ^ 32)
    (v : Byte) : wfFrom lo (setByte m a v) = true := by
  induction m generalizing lo with
  | nil =>
    simp only [setByte]
    split
    · rfl
    · rename_i hv
      simp only [wfFrom, Bool.and_eq_true, decide_eq_true_eq, bne_iff_ne]
      exact ⟨⟨⟨hlo, ha⟩, hv⟩, trivial⟩
  | cons c rest ih =>
    obtain ⟨k, b⟩ := c
    have h0 := h
    simp only [wfFrom, Bool.and_eq_true, decide_eq_true_eq, bne_iff_ne] at h
    obtain ⟨⟨⟨h1, h2⟩, h3⟩, hr⟩ := h
    simp only [setByte]
    split
    · rename_i hak
      split
      · exact h0
      · rename_i hv
        simp only [wfFrom, Bool.and_eq_true, decide_eq_true_eq, bne_iff_ne]
        exact ⟨⟨⟨hlo, ha⟩, hv⟩, ⟨⟨⟨hak, h2⟩, h3⟩, hr⟩⟩
    · split
      · rename_i hk
        subst hk
        split
        · cases rest with
          | nil => rfl
          | cons d rest =>
            obtain ⟨k', b'⟩ := d
            simp only [wfFrom, Bool.and_eq_true, decide_eq_true_eq, bne_iff_ne] at hr ⊢
            obtain ⟨⟨⟨g1, g2⟩, g3⟩, gr⟩ := hr
            exact ⟨⟨⟨by omega, g2⟩, g3⟩, gr⟩
        · rename_i hv
          simp only [wfFrom, Bool.and_eq_true, decide_eq_true_eq, bne_iff_ne]
          exact ⟨⟨⟨h1, h2⟩, hv⟩, hr⟩
      · simp only [wfFrom, Bool.and_eq_true, decide_eq_true_eq, bne_iff_ne]
        exact ⟨⟨⟨h1, h2⟩, h3⟩, ih hr (by omega)⟩

/-- The empty memory is in canonical form. -/
theorem wf_nil : Memory.wf ([] : Memory) = true := rfl

/-- Storing a byte keeps the canonical form. -/
theorem wf_poke {m : Memory} (h : Memory.wf m = true) (a : Word) (v : Byte) : Memory.wf (poke m a v) = true :=
  wfFrom_setByte h (Nat.zero_le _) a.isLt v

/-- A byte after a byte was stored. -/
theorem peek_poke {m : Memory} (h : Memory.wf m = true) (a x : Word) (v : Byte) :
    peek (poke m a v) x = if x = a then v else peek m x := by
  simp only [peek, poke, byteAt_setByte_wf h, BitVec.toNat_inj]

/-! ## Data -/

/-- Storing a datum keeps the canonical form. -/
theorem wf_writeData {m : Memory} (h : Memory.wf m = true) (size : Size) (a v : Word) :
    Memory.wf (writeData m size a v) = true := by
  cases size with
  | byte => exact wf_poke h _ _
  | half => exact wf_poke (wf_poke h _ _) _ _
  | word => exact wf_poke (wf_poke (wf_poke (wf_poke h _ _) _ _) _ _) _ _

/-- The offset of an address in a datum decides which of its bytes it is. -/
theorem eq_add_of_sub {x a k : Word} (h : x = a + k) : x - a = k := by subst h; simp

/-- Every byte a datum does not cover reads as before. -/
theorem peek_writeData_other {m : Memory} (h : Memory.wf m = true) {size : Size} {a x : Word} (hx : ¬covers size a x)
    (v : Word) : peek (writeData m size a v) x = peek m x := by
  have ne : ∀ k : Word, k.toNat < size.bytes → x ≠ a + k := fun k hk he => hx (by
    rw [covers, eq_add_of_sub he]; exact hk)
  cases size with
  | byte =>
    have h0 : x ≠ a := by simpa using ne 0 (by decide)
    simp [writeData, peek_poke h, h0]
  | half =>
    have h0 : x ≠ a := by simpa using ne 0 (by decide)
    have h1 := ne 1 (by decide)
    simp only [writeData, peek_poke h, peek_poke (wf_poke h _ _), if_neg h0, if_neg h1]
  | word =>
    have h0 : x ≠ a := by simpa using ne 0 (by decide)
    have h1 := ne 1 (by decide)
    have h2 := ne 2 (by decide)
    have h3 := ne 3 (by decide)
    simp only [writeData, peek_poke h, peek_poke (wf_poke h _ _), peek_poke (wf_poke (wf_poke h _ _) _ _),
      peek_poke (wf_poke (wf_poke (wf_poke h _ _) _ _) _ _), if_neg h0, if_neg h1, if_neg h2, if_neg h3]

/-- Two addresses with different small offsets differ. -/
theorem add_ne_add (a : Word) {j k : Word} (h : j ≠ k) : a + j ≠ a + k := fun e => h (by
  have := congrArg (fun w => w - a) e
  simpa [BitVec.add_comm a, BitVec.add_sub_cancel] using this)

/-- The four bytes of a word, most significant first, are the word. -/
theorem word_of_bytes (v : Word) :
    ((v.extractLsb' 24 8 ++ v.extractLsb' 16 8) ++ v.extractLsb' 8 8) ++ v.extractLsb' 0 8 = v := by
  apply BitVec.eq_of_getLsbD_eq
  intro i hi
  simp only [BitVec.getLsbD_append, BitVec.getLsbD_extractLsb']
  by_cases h1 : i < 8
  · simp [h1]
  · by_cases h2 : i - 8 < 8
    · simp [h1, h2]; congr 1; omega
    · by_cases h3 : i - 8 - 8 < 8
      · simp [h1, h2, h3]; congr 1; omega
      · simp [h1, h2, h3, show i - 8 - 8 - 8 < 8 by omega]; congr 1; omega

/-- The two bytes of a halfword, most significant first, are the halfword. -/
theorem half_of_bytes (v : Word) : v.extractLsb' 8 8 ++ v.extractLsb' 0 8 = v.extractLsb' 0 16 := by
  apply BitVec.eq_of_getLsbD_eq
  intro i hi
  simp only [BitVec.getLsbD_append, BitVec.getLsbD_extractLsb']
  by_cases h1 : i < 8
  · simp [h1, hi]
  · simp [h1, hi, show i - 8 < 8 by omega, show 8 + (i - 8) = i by omega]

/-- A datum reads as it was stored, cut to its size (20_memory R70, R76). -/
theorem readData_writeData {m : Memory} (h : Memory.wf m = true) (size : Size) (a v : Word) :
    readData (writeData m size a v) size a = truncated size v := by
  have n01 : a ≠ a + 1 := by simp
  have n02 : a ≠ a + 2 := by simp
  have n03 : a ≠ a + 3 := by simp
  have n12 : a + 1 ≠ a + 2 := add_ne_add a (by decide)
  have n13 : a + 1 ≠ a + 3 := add_ne_add a (by decide)
  have n23 : a + 2 ≠ a + 3 := add_ne_add a (by decide)
  have w1 := wf_poke h a
  cases size with
  | byte => simp only [writeData, readData, peek_poke h, if_pos, truncated]
  | half =>
    simp only [writeData, readData, peek_poke h, peek_poke (w1 _), n01, if_pos, if_false, truncated, half_of_bytes]
  | word =>
    have w2 := fun b c => wf_poke (w1 b) (a + 1) c
    have w3 := fun b c d => wf_poke (w2 b c) (a + 2) d
    simp only [writeData, readData, peek_poke h, peek_poke (w1 _), peek_poke (w2 _ _), peek_poke (w3 _ _ _), n01, n02,
      n03, n12, n13, n23, Ne.symm n01, Ne.symm n12, Ne.symm n02, if_pos, if_false, truncated]
    exact word_of_bytes v

/-! ## Accesses -/

/-- What a read can answer: what the transaction delivers (20_memory R80, R90). -/
theorem memRead_eq_some {s : State} {st : Status} {size : Size} {a v : Word} :
    memRead s st size a = some v ↔ ∃ q, readReach s st size a = some q ∧ v = received s.mem size q := by
  simp only [memRead, Option.map_eq_some_iff]
  constructor
  · rintro ⟨p, h, rfl⟩; exact ⟨p, h, rfl⟩
  · rintro ⟨p, h, rfl⟩; exact ⟨p, h, rfl⟩

/-- What a write can answer: memory with the datum stored where the transaction reaches it, nothing else changed
(20_memory R80, R90). -/
theorem memWrite_eq_some {s s' : State} {st : Status} {size : Size} {a v : Word} :
    memWrite s st size a v = some s' ↔
      ∃ q, writeReach s st size a v = some q ∧ s' = { s with mem := deposited s.mem size q v } := by
  simp only [memWrite, Option.map_eq_some_iff]
  constructor
  · rintro ⟨p, h, rfl⟩; exact ⟨p, h, rfl⟩
  · rintro ⟨p, h, rfl⟩; exact ⟨p, h, rfl⟩

/-- A write keeps the canonical form, whatever it reaches. -/
theorem wf_deposited {m : Memory} (h : Memory.wf m = true) (size : Size) (q : Reached) (v : Word) :
    Memory.wf (deposited m size q v) = true := by
  cases q with
  | memory p => exact wf_writeData h size p v
  | device w => exact h

/-- What a write that reached q leaves. -/
theorem storedAt_deposited {s w : State} (h : Memory.wf s.mem = true) {size : Size} {q : Reached} {v : Word}
    (hw : w.mem = deposited s.mem size q v) : StoredAt size q v s w := by
  cases q with
  | memory p =>
    simp only [deposited] at hw
    exact ⟨by rw [hw]; exact readData_writeData h _ _ _, fun x hx => by rw [hw]; exact peek_writeData_other h hx v⟩
  | device d => intro x; rw [hw]; rfl

/-- Other masters' writes keep the canonical form. -/
theorem wf_busWritten {m : Memory} (h : Memory.wf m = true) (ws : List (Word × Byte)) :
    Memory.wf (busWritten m ws) = true := by
  induction ws generalizing m with
  | nil => exact h
  | cons w ws ih => exact ih (wf_poke h w.1 w.2)

end Sys2Proof.Machine
end

