-- ==== Sys2Proof/Laws/Preserve.lean ====
section
/-! SUPPORT. What every shared operation keeps: the canonical form of memory, PSW bits 31:26, the sizes of the cache and the
queue, and (calm) that kernel level is not forced. One lemma per operation; an instruction is a chain of them by Ends.bind. -/

namespace Sys2Proof.Machine

/-- Memory in canonical form, PSW bits 31:26 zero, the cache and the queue of their sizes; if calm, kernel level is not
forced. -/
def Held (calm : Bool) (s : State) : Prop :=
  s.mem.wf = true ∧ s.regs.psw &&& 0xFC000000 = 0 ∧ (calm = true → s.kernelForced = false) ∧ (cachedWords s.icache).length ≤ 64 ∧
    s.iqueue.length ≤ 8

/-- The same of the state a computation answers beside a value. -/
def HeldWith {α : Type} (calm : Bool) (x : α × State) : Prop := Held calm x.2

/-- What a computation answers has P; the state in which it raises an exception has Q. -/
def Ends {α : Type} (P : α → Prop) (Q : State → Prop) (r : Run α) : Prop :=
  match r with
  | .ok a => P a
  | .error e => Q e.2

theorem Ends.bind {α β : Type} {P : α → Prop} {R : β → Prop} {Q : State → Prop} {r : Run α} {f : α → Run β}
    (h : Ends P Q r) (g : ∀ a, P a → Ends R Q (f a)) : Ends R Q (r >>= f) := by
  cases r with
  | error e => exact h
  | ok a => exact g a h

theorem Ends.mono {α : Type} {P R : α → Prop} {Q T : State → Prop} {r : Run α} (h : Ends P Q r)
    (g : ∀ a, P a → R a) (k : ∀ s, Q s → T s) : Ends R T r := by
  cases r with
  | error e => exact k _ h
  | ok a => exact g _ h

/-- A check that passes or raises in the state it started in. -/
theorem Ends.check {Q : State → Prop} {b : Bool} {e : Exn} {s : State} (q : Q s) :
    Ends (fun _ : Unit => True) Q (if b then .ok () else .error (e, s)) := by
  cases b
  · exact q
  · exact trivial

/-- The same for a computation that answers a value and a state. -/
theorem Ends.bindWith {α β : Type} {calm : Bool} {R : β → Prop} {Q : State → Prop} {r : Run (α × State)}
    {f : α × State → Run β} (h : Ends (HeldWith calm) Q r) (g : ∀ a s, Held calm s → Ends R Q (f (a, s))) :
    Ends R Q (r >>= f) := h.bind fun x hx => g x.1 x.2 hx

/-! ## Held through updates -/

theorem Held.calm_false {calm : Bool} {s : State} (h : Held calm s) : Held false s := ⟨h.1, h.2.1, by simp, h.2.2.2⟩

theorem Ends.calm {α : Type} {P : α → Prop} {calm : Bool} {r : Run α} (h : Ends P (Held calm) r) :
    Ends P (Held false) r := h.mono (fun _ x => x) fun _ x => x.calm_false

theorem masked_high (v : Word) : v &&& maskPsw &&& 0xFC000000 = 0 := by
  rw [BitVec.and_assoc]; simp [maskPsw]

theorem Held.setReg {calm : Bool} {s : State} (h : Held calm s) (r : Reg) (v : Word) : Held calm (setReg r v s) := by
  refine ⟨h.1, ?_, h.2.2⟩
  have hp := h.2.1
  cases r with
  | psw => exact masked_high v
  | _ => exact hp

theorem Held.setPsw {calm : Bool} {s : State} (h : Held calm s) (v : Word) : Held calm (setPsw v s) := h.setReg .psw v

theorem Held.setFlags {calm : Bool} {s : State} (h : Held calm s) (f : BitVec 4) : Held calm (setFlags f s) :=
  h.setPsw _

theorem Held.writePsw {calm : Bool} {s : State} (h : Held calm s) (v : Word) : Held calm (writePsw v s) := by
  simp only [Machine.writePsw]
  split
  · exact h.setPsw _
  · exact Held.setPsw (s := { s with cacheCorrupt := true }) h _

theorem Held.writeOperandReg {calm : Bool} {s : State} (h : Held calm s) (r : Reg) (v : Word) :
    Held calm (writeOperandReg r v s) := by
  simp only [Machine.writeOperandReg]
  split
  · exact h.writePsw v
  · exact h.setReg r v

theorem Held.applyFlags {calm : Bool} {s : State} (h : Held calm s) (k : Bool) (f : BitVec 4) :
    Held calm (applyFlags k f s) := by
  simp only [Machine.applyFlags]
  split
  · exact h
  · exact h.setFlags f

theorem Held.advance {calm : Bool} {s : State} (h : Held calm s) (len : Nat) : Held calm (advance len s) :=
  h.setReg .pc (s.regs.pc + BitVec.ofNat 32 len)

theorem Held.jumped {calm : Bool} {s : State} (h : Held calm s) : Held calm (jumped s) :=
  ⟨h.1, h.2.1, h.2.2.1, h.2.2.2.1, by simp⟩

theorem Held.jump {calm : Bool} {s : State} (h : Held calm s) (t : Word) : Held calm (jump t s) := (h.setReg .pc t).jumped

theorem Held.force {calm : Bool} {s : State} (h : Held calm s) : Held false (forceKernel true s) :=
  ⟨h.1, h.2.1, by simp, h.2.2.2⟩

theorem Held.unforce {calm k : Bool} {s : State} (h : Held calm s) : Held k (forceKernel false s) :=
  ⟨h.1, h.2.1, fun _ => rfl, h.2.2.2⟩

theorem Held.setCodes {calm : Bool} {s : State} (h : Held calm s) (i : BitVec 4) (t : Bool) (e : BitVec 2) :
    Held calm (setCodes i t e s) := h.setPsw _

theorem Held.recordCause {calm : Bool} {s : State} (h : Held calm s) (e : Exn) : Held calm (recordCause e s) := h.setPsw _

theorem Held.flushCache {calm : Bool} {s : State} (h : Held calm s) : Held calm (flushCache s) :=
  ⟨h.1, h.2.1, h.2.2.1, by simp, by simp⟩

theorem Held.settle {calm k : Bool} {s : State} (h : Held calm s) : Held k (settle s) :=
  ⟨h.1, h.2.1, fun _ => rfl, h.2.2.2.1, by simp⟩

theorem Held.enterNormal {calm : Bool} {s : State} (h : Held calm s) (e : Exn) : Held calm (enterNormal e s) := by
  simp only [Machine.enterNormal]
  split
  · exact (h.setFlags _).recordCause e
  · exact h.recordCause e

/-! ## Accesses -/

/-- The turn of the environment writes memory and may change the inputs. -/
theorem Held.busTurn {calm : Bool} {s : State} (h : Held calm s) : Ends (Held calm) (Held calm) (busTurn s) := by
  simp only [Machine.busTurn]
  split
  · exact h
  · have g := wf_busWritten h.1
    split
    · exact ⟨g _, h.2⟩
    · exact ⟨g _, h.2⟩

theorem Held.dataTurn {calm : Bool} {s : State} (h : Held calm s) (size : Size) (a : Word) :
    Ends (Held calm) (Held calm) (dataTurn size a s) := by
  simp only [Machine.dataTurn]
  split
  · exact h
  · exact h.busTurn

theorem Held.loadAs {calm : Bool} {s : State} (h : Held calm s) (st : Status) (size : Size) (e : Exn) (a : Word) :
    Ends (HeldWith calm) (Held calm) (loadAs st size e a s) := by
  simp only [Machine.loadAs]
  refine (h.dataTurn size a).bind fun s hs => ?_
  split
  · exact hs
  · exact hs

theorem Held.load {calm : Bool} {s : State} (h : Held calm s) (e : Exn) (a : Word) :
    Ends (HeldWith calm) (Held calm) (load e a s) := h.loadAs _ _ _ _

theorem Held.put {calm : Bool} {s : State} (h : Held calm s) (st : Status) (size : Size) (e : Exn) (a v : Word) :
    Ends (Held calm) (Held calm) (put st size e a v s) := by
  simp only [Machine.put]
  split
  · rename_i t ht
    obtain ⟨q, _, rfl⟩ := memWrite_eq_some.mp ht
    exact ⟨wf_deposited h.1 _ _ _, h.2⟩
  · exact h

theorem Held.storeAs {calm : Bool} {s : State} (h : Held calm s) (st : Status) (size : Size) (e : Exn) (a v : Word) :
    Ends (Held calm) (Held calm) (storeAs st size e a v s) := by
  simp only [Machine.storeAs]
  exact (h.dataTurn size a).bind fun s hs => hs.put _ _ _ _ _

theorem Held.store {calm : Bool} {s : State} (h : Held calm s) (e : Exn) (a v : Word) :
    Ends (Held calm) (Held calm) (store e a v s) := h.storeAs _ _ _ _ _

theorem Held.storeWords {calm : Bool} {s : State} (h : Held calm s) (e : Exn) (a : Word) (vs : List Word) :
    Ends (Held calm) (Held calm) (storeWords e a vs s) := by
  induction vs generalizing s a with
  | nil => exact h
  | cons v vs ih => exact (h.store e a v).bind fun s' hs => ih hs _

theorem Held.loadRegs {calm : Bool} {s : State} (h : Held calm s) (e : Exn) (a : Word) (rs : List Reg) :
    Ends (Held calm) (Held calm) (loadRegs e a rs s) := by
  induction rs generalizing s a with
  | nil => exact h
  | cons r rs ih => exact (h.load e a).bind fun x hx => ih (Held.setReg hx r x.1) _

/-! ## Microsequences: from and to a state in which kernel level may be forced -/

theorem Held.checkBounds {calm : Bool} {s : State} (h : Held calm s) :
    Ends (Held true) (Held false) (checkBounds s) := by
  simp only [Machine.checkBounds]
  refine (h.force.load _ _).bindWith fun lo s hs => (hs.load _ _).bindWith fun hi s hs => ?_
  split
  · exact hs
  · split
    · exact hs
    · exact hs.unforce

theorem Held.pushContext {calm : Bool} {s : State} (h : Held calm s) (pc : Word) (image : Word → Word) :
    Ends (Held calm) (Held calm) (pushContext pc image s) := by
  simp only [Machine.pushContext]
  exact (h.store _ _ _).bind fun s hs => (hs.setPsw _).store _ _ _

theorem Held.gateMechanism {calm : Bool} {s : State} (h : Held calm s) (i j : Word) (e : Exn) :
    Ends (Held true) (Held false) (gateMechanism i j e s) := by
  simp only [Machine.gateMechanism]
  refine (h.force.load _ _).bindWith fun a s hs => (hs.load _ _).bindWith fun b s hs =>
    (hs.load _ _).bindWith fun c s hs => ?_
  exact Held.unforce (((hs.setReg .pc c).setPsw _).setReg .sp _)

theorem Held.xswitchOne {s : State} (h : Held false s) (t : Word) (e : Exn) :
    Ends (Held false) (Held false) (xswitchOne t e s) := by
  simp only [Machine.xswitchOne]
  refine (h.store _ _ _).bind fun s hs => (hs.load _ _).bindWith fun image s hs =>
    ((hs.setPsw _).store _ _ _).bind fun s hs => (hs.store _ _ _).bind fun s hs => ?_
  split
  · exact (hs.store _ _ _).bind fun s hs => (hs.store _ _ _).bind fun s hs => (hs.storeWords _ _ _).bind fun s hs =>
      hs.setReg .fp _
  · exact hs

theorem Held.xswitchTwo {s : State} (h : Held false s) (t : Word) (e : Exn) :
    Ends (Held false) (Held false) (xswitchTwo t e s) := by
  simp only [Machine.xswitchTwo]
  refine ((h.setReg .pcbp t).load _ _).bindWith fun image s hs =>
    ((hs.setPsw _).load _ _).bindWith fun pc s hs =>
    ((hs.setReg .pc pc).load _ _).bindWith fun sp s hs => ?_
  have h4 := hs.setReg .sp sp
  have h5 : ∀ s : State, Held false s →
      Held false (if pswI s.regs.psw = true then Machine.setReg .pcbp (s.regs.pcbp + 12) (Machine.setPsw (clearI s.regs.psw) s) else s) := by
    intro s hs
    split
    · exact (hs.setPsw _).setReg .pcbp _
    · exact hs
  have h6 : ∀ s : State, Held false s → Held false (if pswCfd s.regs.psw = true then s else Machine.flushCache s) := by
    intro s hs
    split
    · exact hs
    · exact hs.flushCache
  exact h6 _ (h5 _ h4)

theorem Held.pushPcbp {calm : Bool} {s : State} (h : Held calm s) : Ends (Held calm) (Held calm) (pushPcbp s) := by
  simp only [Machine.pushPcbp]
  exact (h.store _ _ _).bind fun s hs => hs.setReg .isp _

theorem Held.onNormal {calm : Bool} {s : State} (h : Held calm s) : Ends (Held true) (Held false) (onNormal s) := by
  simp only [Machine.onNormal]
  exact h.checkBounds.bind fun s hs => (hs.pushContext _ _).calm.bind fun s hs => hs.gateMechanism _ _ _

theorem Held.onStack {calm : Bool} {s : State} (h : Held calm s) (c : BitVec 4) :
    Ends (Held true) (Held false) (onStack c s) := by
  simp only [Machine.onStack]
  refine (h.force.load _ _).bindWith fun a s hs => hs.pushPcbp.bind fun s hs =>
    ((hs.setCodes c _ 2).xswitchOne _ _).bind fun s hs => (hs.xswitchTwo _ _).bind fun s hs => ?_
  exact (hs.setCodes 7 false 3).unforce

theorem Held.onProcess {calm : Bool} {s : State} (h : Held calm s) : Ends (Held true) (Held false) (onProcess s) := by
  simp only [Machine.onProcess]
  refine (h.force.load _ _).bindWith fun a s hs => hs.pushPcbp.bind fun s hs =>
    (hs.xswitchTwo _ _).bind fun s hs => ?_
  exact (hs.setCodes _ false 3).unforce

theorem Held.onReset {calm : Bool} {s : State} (h : Held calm s) (x : Bool) :
    Ends (Held true) (Held false) (onReset x s) := by
  simp only [Machine.onReset]
  have h1 : Held calm (if x = true then Machine.setPsw (withR false (Machine.flushCache s).regs.psw) (Machine.flushCache s)
      else Machine.flushCache s) := by
    split
    · exact h.flushCache.setPsw _
    · exact h.flushCache
  have h2 : Held false { forceKernel true (if x = true then Machine.setPsw (withR false (Machine.flushCache s).regs.psw)
      (Machine.flushCache s) else Machine.flushCache s) with virtualMode := false } := h1.force
  exact (h2.load _ _).bindWith fun a s hs => (hs.xswitchTwo _ _).bind fun s hs =>
    (hs.setCodes _ false 3).unforce

/-! ## Taking an exception -/

theorem held_runReset {calm : Bool} {s : State} (h : Held calm s) (x : Bool) : (runReset x s).Inv := by
  simp only [runReset]
  have g := h.onReset x
  split
  · rename_i t ht
    rw [ht] at g
    exact ⟨g.1, g.2.1, by simp [forcedOk, settle, jumped], g.2.2.2.1, by simp⟩
  · rename_i e t ht
    rw [ht] at g
    have g := Held.recordCause (s := t) g e
    exact ⟨g.1, g.2.1, rfl, g.2.2.2⟩

theorem Held.inv {calm : Bool} {s : State} (h : Held calm s) (f : forcedOk s = true) : s.Inv :=
  ⟨h.1, h.2.1, f, h.2.2.2⟩

theorem Held.inv_calm {s : State} (h : Held true s) : s.Inv := by
  refine h.inv ?_
  simp only [forcedOk]
  split <;> simp [h.2.2.1]

theorem State.Inv.held {s : State} (h : s.Inv) : Held false s := ⟨h.1, h.2.1, by simp, h.2.2.2⟩

theorem held_raiseReset {calm : Bool} {s : State} (h : Held calm s) (e : Exn) : (raiseReset e s).Inv := by
  simp only [raiseReset]
  split
  · exact ⟨h.1, h.2.1, rfl, h.2.2.2⟩
  · exact held_runReset (h.recordCause e) _

theorem held_raiseProcess {calm : Bool} {s : State} (h : Held calm s) (e : Exn) : (raiseProcess e s).Inv := by
  simp only [raiseProcess]
  have g := (h.recordCause e).onProcess
  split
  · rename_i t ht; rw [ht] at g; exact (Held.settle (k := true) g).inv_calm
  · rename_i e t ht; rw [ht] at g; exact held_raiseReset g e

theorem held_raiseStack {calm : Bool} {s : State} (h : Held calm s) (e : Exn) : (raiseStack e s).Inv := by
  simp only [raiseStack]
  have g := (h.recordCause e).onStack e.code
  split
  · rename_i t ht; rw [ht] at g; exact (Held.settle (k := true) g).inv_calm
  · rename_i e t ht; rw [ht] at g
    split
    · exact held_raiseProcess g e
    · exact held_raiseReset g e

theorem held_raiseNormal {calm : Bool} {s : State} (h : Held calm s) (e : Exn) : (raiseNormal e s).Inv := by
  simp only [raiseNormal]
  have g := (h.enterNormal e).onNormal
  split
  · rename_i t ht; rw [ht] at g; exact (Held.settle (k := true) g).inv_calm
  · rename_i e t ht; rw [ht] at g
    split
    · exact held_raiseStack g e
    · exact held_raiseProcess g e
    · exact held_raiseReset g e

/-- Taking an exception ends in a state of the machine's invariant. -/
theorem held_raise {calm : Bool} {s : State} (h : Held calm s) (e : Exn) : (raise e s).Inv := by
  simp only [raise]
  split
  · exact held_raiseNormal h e
  · exact held_raiseStack h e
  · exact held_raiseProcess h e
  · exact held_raiseReset h e

/-- A machine that takes an exception runs on, or is in a reset: it does not wait. -/
theorem raise_phase (e : Exn) (s : State) : (raise e s).phase = .running ∨ ∃ x, (raise e s).phase = .resetting x := by
  have reset : ∀ x s, (runReset x s).phase = .running ∨ ∃ y, (runReset x s).phase = .resetting y := by
    intro x s; simp only [runReset]; split
    · exact .inl rfl
    · exact .inr ⟨_, rfl⟩
  have r : ∀ e s, (raiseReset e s).phase = .running ∨ ∃ y, (raiseReset e s).phase = .resetting y := by
    intro e s; simp only [raiseReset]; split
    · exact .inr ⟨_, rfl⟩
    · exact reset _ _
  have p : ∀ e s, (raiseProcess e s).phase = .running ∨ ∃ y, (raiseProcess e s).phase = .resetting y := by
    intro e s; simp only [raiseProcess]; split
    · exact .inl rfl
    · exact r _ _
  have k : ∀ e s, (raiseStack e s).phase = .running ∨ ∃ y, (raiseStack e s).phase = .resetting y := by
    intro e s; simp only [raiseStack]; split
    · exact .inl rfl
    · split
      · exact p _ _
      · exact r _ _
  have n : ∀ e s, (raiseNormal e s).phase = .running ∨ ∃ y, (raiseNormal e s).phase = .resetting y := by
    intro e s; simp only [raiseNormal]; split
    · exact .inl rfl
    · split
      · exact k _ _
      · exact p _ _
      · exact r _ _
  simp only [raise]; split
  · exact n _ _
  · exact k _ _
  · exact p _ _
  · exact r _ _

theorem held_fault {calm : Bool} {s : State} (h : Held calm s) (e : Exn) : (fault e s).Inv :=
  held_raise (s := { s with pendingOverflow := false }) h e

/-- The end of an instruction keeps the invariant. -/
theorem State.Inv.complete {s : State} (h : s.Inv) (o : Bool) : (complete o s).Inv := by
  have tr : ∀ s : State, s.Inv → (traceTest s).Inv := by
    intro s hs
    simp only [traceTest]
    split
    · exact held_raise (s := { s with traceOpen := false }) hs.held _
    · exact hs
  simp only [Machine.complete]
  split
  · exact held_raise (s := { s with pendingOverflow := false }) h.held _
  · split
    · split
      · exact tr _ h
      · exact held_raise h.held _
    · exact tr _ h

theorem Held.complete {s : State} (h : Held true s) (o : Bool) : (complete o s).Inv := h.inv_calm.complete o

/-- What an instruction's computation answers keeps the invariant if it does, and if its faults leave memory and the PSW
in form. -/
theorem ends_conclude {r : Run State} (h : Ends State.Inv (Held false) r) {t : State} (e : conclude r = .next t) :
    t.Inv := by
  cases r with
  | ok s => simp only [conclude, Host.Outcome.next.injEq] at e; exact e ▸ h
  | error x => simp only [conclude, Host.Outcome.next.injEq] at e; exact e ▸ held_fault h x.1

/-! ## Operands -/

theorem Held.effectiveAddress {calm : Bool} {s : State} (h : Held calm s) (m : Mode) :
    Ends (HeldWith calm) (Held calm) (effectiveAddress m s) := by
  cases m <;> first | exact h.loadAs _ _ _ _ | exact h

theorem Held.resolve {calm : Bool} {s : State} (h : Held calm s) (m : Mode) :
    Ends (HeldWith calm) (Held calm) (resolve m s) := by
  unfold Machine.resolve
  split
  · exact h
  · exact (h.effectiveAddress _).bind fun _ hx => hx

theorem Held.readMemory {calm : Bool} {s : State} (h : Held calm s) (t : OType) (a : Word) :
    Ends (HeldWith calm) (Held calm) (readMemory t a s) := (h.loadAs _ _ _ _).bind fun _ hx => hx

theorem Held.readSource {calm : Bool} {s : State} (h : Held calm s) (t : OType) (m : Mode) :
    Ends (HeldWith calm) (Held calm) (readSource t m s) := by
  unfold Machine.readSource
  split
  · exact h
  · exact h
  · exact h
  · exact h
  · exact (h.effectiveAddress _).bind fun _ hx => Held.readMemory hx _ _

theorem Held.readPlace {calm : Bool} {s : State} (h : Held calm s) (t : OType) (p : Place) :
    Ends (HeldWith calm) (Held calm) (readPlace t p s) := by
  cases p with
  | register r => exact h
  | memory a => exact h.readMemory t a

theorem ends_checkOperands {Q : State → Prop} {s : State} (q : Q s) (os : List (Role × Operand)) :
    Ends (fun _ => True) Q (checkOperands os s) := Ends.check q

theorem ends_checkPrivilege {Q : State → Prop} {s : State} (q : Q s) (m : Mode) :
    Ends (fun _ => True) Q (checkPrivilege m s) := by
  unfold checkPrivilege
  split
  · split
    · exact q
    · exact trivial
  · exact trivial

theorem Held.writePlace {calm : Bool} {s : State} (h : Held calm s) (t : OType) (p : Place) (v : Word) :
    Ends (Held calm) (Held calm) (writePlace t p v s) := by
  cases p with
  | register r => exact h.writeOperandReg r v
  | memory a => exact h.storeAs _ _ _ _ _

/-- The end of an instruction with a destination keeps the invariant. -/
theorem Held.finish {s : State} (h : Held true s) (t : OType) (p : Place) (k : Bool) (len : Nat) (r : Result) :
    Ends State.Inv (Held false) (finish t p k len r s) := by
  simp only [Machine.finish]
  split
  · exact h.calm_false
  · refine (((h.applyFlags _ _).writePlace _ _ _).mono (fun _ x => x) fun _ x => x.calm_false).bind fun s hs => ?_
    exact (hs.advance len).complete _

theorem Held.finishFlags {s : State} (h : Held true s) (k : Bool) (len : Nat) (f : BitVec 4) :
    (finishFlags k len f s).Inv := ((h.applyFlags k f).advance len).complete _

/-! ## Block moves and interrupts -/

/-- A process switch is over: kernel level released, control at the new PC. -/
theorem Held.released {s : State} (h : Held false s) :
    State.Inv (Machine.complete false (Machine.jumped { Machine.forceKernel false s with phase := .running })) :=
  Held.complete (Held.jumped (s := { Machine.forceKernel false s with phase := .running }) (h.unforce (k := true))) false

theorem Held.endSwitch {s : State} (h : Held false s) (o : Switch) : Ends State.Inv (Held false) (endSwitch o s) := by
  cases o with
  | interrupt => exact (Held.settle (k := true) h).inv_calm
  | callps => exact h.released
  | retps =>
    simp only [Machine.endSwitch]
    split
    · exact (h.loadRegs _ _ _).bind fun s hs => (hs.loadRegs _ _ _).bind fun s hs => (hs.loadRegs _ _ _).bind fun s hs =>
        hs.released
    · exact h.released

theorem Held.nextBlock {s : State} (h : Held false s) (o : Switch) : Ends State.Inv (Held false) (nextBlock o s) := by
  simp only [Machine.nextBlock]
  refine (h.load _ _).bindWith fun v s hs => ?_
  have g := (hs.setReg .r2 v).setReg .r0 (s.regs.r0 + 4)
  exact ⟨g.1, g.2.1, rfl, g.2.2.2⟩

theorem Held.xswitchThree {s : State} (h : Held false s) (o : Switch) :
    Ends State.Inv (Held false) (xswitchThree o s) := by
  simp only [Machine.xswitchThree]
  split
  · exact (h.setReg _ _).nextBlock o
  · exact h.endSwitch o

theorem Held.copyWord {calm : Bool} {s : State} (h : Held calm s) (e : Exn) :
    Ends (Held calm) (Held calm) (copyWord e s) := by
  simp only [Machine.copyWord]
  exact (h.load _ _).bindWith fun v s hs => (hs.store _ _ _).bind fun s hs =>
    ((hs.setReg .r2 _).setReg .r0 _).setReg .r1 _

theorem Held.acknowledge {calm : Bool} {s : State} (h : Held calm s) (e : Exn) :
    Ends (HeldWith calm) (Held calm) (acknowledge e s) := by
  simp only [Machine.acknowledge]
  refine h.busTurn.bind fun s hs => ?_
  split <;> exact hs

theorem Held.interruptId {calm : Bool} {s : State} (h : Held calm s) :
    Ends (HeldWith calm) (Held calm) (interruptId s) := by
  simp only [Machine.interruptId]
  split
  · exact h.busTurn.bind fun _ hs => hs
  · split
    · exact h.busTurn.bind fun _ hs => hs
    · exact h.acknowledge _

theorem Held.fullInterrupt {calm : Bool} {s : State} (h : Held calm s) (id : Word) :
    Ends State.Inv (Held false) (fullInterrupt id s) := by
  simp only [Machine.fullInterrupt]
  exact (h.force.load _ _).bindWith fun a s hs => hs.pushPcbp.bind fun s hs =>
    ((hs.setCodes 0 false 1).xswitchOne _ _).bind fun s hs => (hs.xswitchTwo _ _).bind fun s hs =>
      (hs.setCodes 7 false 3).xswitchThree _

theorem Held.quickInterrupt {calm : Bool} {s : State} (h : Held calm s) (id : Word) :
    Ends State.Inv (Held false) (quickInterrupt id s) := by
  simp only [Machine.quickInterrupt]
  refine (h.calm_false.pushContext _ _).bind fun s hs => (hs.force.load _ _).bindWith fun a s hs =>
    (hs.load _ _).bindWith fun pc s hs => ?_
  exact (Held.settle (k := true) (((hs.setReg .pc pc).setPsw _).setReg .sp _)).inv_calm

theorem held_takeInterrupt {calm : Bool} {s : State} (h : Held calm s) : (takeInterrupt s).Inv := by
  have g : Ends State.Inv (Held false) (onInterrupt { s with phase := .running }) := by
    simp only [onInterrupt]
    have h : Held calm { s with phase := .running } := h
    refine ((h.calm_false).interruptId).bindWith fun id s hs => ?_
    dsimp only
    split
    · exact hs.quickInterrupt id
    · exact hs.fullInterrupt id
  simp only [takeInterrupt]
  split
  · rename_i t ht; rw [ht] at g; exact g
  · rename_i e t ht; rw [ht] at g; exact held_raise g e

end Sys2Proof.Machine
end

