-- ==== Sys2Proof/Laws/Ops.lean ====
section
/-! SUPPORT. What each shared operation answers, said once: accesses, the two halves of a push, the destination's write,
the end of an instruction. -/

namespace Sys2Proof.Machine

/-! ## Accesses -/

/-- Nothing happens on the bus: the turn changes nothing. -/
theorem busTurn_quiet {s : State} (h : s.bus = []) : busTurn s = .ok s := by simp [busTurn, h]

theorem dataTurn_quiet {s : State} (h : s.bus = []) (size : Size) (a : Word) : dataTurn size a s = .ok s := by
  simp [dataTurn, busTurn_quiet h]

/-- All that a load can do: the environment has its turn, then the datum is read or e is raised (20_memory R80, R101). -/
theorem loadAs_ok {st : Status} {size : Size} {e : Exn} {a v : Word} {s t : State} :
    loadAs st size e a s = .ok (v, t) ↔ dataTurn size a s = .ok t ∧ memRead t st size a = some v := by
  simp only [loadAs, bind, Except.bind]
  cases dataTurn size a s with
  | error x => simp
  | ok u =>
    simp only [Except.ok.injEq]
    cases h : memRead u st size a with
    | none => simp; rintro rfl; simp [h]
    | some w =>
      simp only [Except.ok.injEq, Prod.mk.injEq]
      constructor
      · rintro ⟨rfl, rfl⟩; exact ⟨rfl, h⟩
      · rintro ⟨rfl, g⟩; exact ⟨by simpa [h] using g, rfl⟩

/-- All that a write without a turn can do: memory changes where its transaction reaches it (20_memory R80). -/
theorem put_ok {st : Status} {size : Size} {e : Exn} {a v : Word} {s s' : State} :
    put st size e a v s = .ok s' ↔
      ∃ q, writeReach s st size a v = some q ∧ s' = { s with mem := deposited s.mem size q v } := by
  rw [← memWrite_eq_some]
  simp only [put]
  split <;> simp_all

/-- All that a store can do: the environment has its turn, then memory changes (20_memory R80, R101). -/
theorem storeAs_ok {st : Status} {size : Size} {e : Exn} {a v : Word} {s s' : State} :
    storeAs st size e a v s = .ok s' ↔ ∃ t q, dataTurn size a s = .ok t ∧ writeReach t st size a v = some q ∧
      s' = { t with mem := deposited t.mem size q v } := by
  simp only [storeAs, bind, Except.bind]
  cases dataTurn size a s with
  | error x => simp
  | ok u => simp [put_ok]

theorem loadAs_quiet {s : State} (hb : s.bus = []) {st : Status} {size : Size} {a v : Word}
    (h : memRead s st size a = some v) (e : Exn) : loadAs st size e a s = .ok (v, s) :=
  loadAs_ok.mpr ⟨dataTurn_quiet hb size a, h⟩

theorem loadAs_fails {s : State} (hb : s.bus = []) {st : Status} {size : Size} {a : Word}
    (h : memRead s st size a = none) (e : Exn) : loadAs st size e a s = .error (e, s) := by
  simp [loadAs, dataTurn_quiet hb, bind, Except.bind, h]

theorem storeAs_quiet {s : State} (hb : s.bus = []) {st : Status} {size : Size} {a v : Word} {q : Reached}
    (h : writeReach s st size a v = some q) (e : Exn) :
    storeAs st size e a v s = .ok { s with mem := deposited s.mem size q v } :=
  storeAs_ok.mpr ⟨s, q, dataTurn_quiet hb size a, h, rfl⟩

theorem storeAs_fails {s : State} (hb : s.bus = []) {st : Status} {size : Size} {a v : Word}
    (h : writeReach s st size a v = none) (e : Exn) : storeAs st size e a v s = .error (e, s) := by
  simp [storeAs, dataTurn_quiet hb, bind, Except.bind, put, memWrite, h]

/-- In a plain state every transaction reaches its own address. -/
theorem access_plain {s : State} (h : Plain s) (st : Status) (size : BusSize) (kind : Kind) (a v : Word) :
    access s st size kind a v = some (.memory a) := by
  simp [access, reply, h.2.1, translate, translating, h.1]

theorem readReach_plain {s : State} (h : Plain s) {st : Status} {size : Size} {a : Word}
    (ha : misaligned size a = false) : readReach s st size a = some (.memory a) := by
  simp [readReach, ha, access_plain h]

theorem writeReach_plain {s : State} (h : Plain s) {st : Status} {size : Size} {a : Word}
    (ha : misaligned size a = false) (v : Word) : writeReach s st size a v = some (.memory a) := by
  simp [writeReach, ha, access_plain h]

theorem memRead_plain {s : State} (h : Plain s) {st : Status} {size : Size} {a : Word}
    (ha : misaligned size a = false) : memRead s st size a = some (readData s.mem size a) := by
  simp [memRead, readReach_plain h ha, received]

theorem load_plain {s : State} (h : Plain s) {a : Word} (ha : Aligned a) (e : Exn) :
    load e a s = .ok (wordAt s a, s) := loadAs_quiet h.2.2 (memRead_plain h ha) e

theorem store_plain {s : State} (h : Plain s) {a : Word} (ha : Aligned a) (e : Exn) (v : Word) :
    store e a v s = .ok { s with mem := writeData s.mem .word a v } :=
  storeAs_quiet h.2.2 (writeReach_plain h ha v) e

/-- A multiple of 4 past a multiple of 4. -/
theorem Aligned.add {a k : Word} (ha : Aligned a) (hk : Aligned k) : Aligned (a + k) := by
  simp only [Aligned, misaligned, Bool.or_eq_false_iff] at *
  have h : ∀ w : Word, (w.getLsbD 0 = false ∧ w.getLsbD 1 = false) ↔ w.toNat % 4 = 0 := by
    intro w
    simp only [BitVec.getLsbD, Nat.testBit, Nat.shiftRight_zero, Nat.one_and_eq_mod_two, Nat.shiftRight_succ]
    simp only [bne_eq_false_iff_eq]
    omega
  rw [h] at *
  rw [BitVec.toNat_add]
  omega

theorem Aligned.sub {a k : Word} (ha : Aligned a) (hk : Aligned k) : Aligned (a - k) := by
  simp only [Aligned, misaligned, Bool.or_eq_false_iff] at *
  have h : ∀ w : Word, (w.getLsbD 0 = false ∧ w.getLsbD 1 = false) ↔ w.toNat % 4 = 0 := by
    intro w
    simp only [BitVec.getLsbD, Nat.testBit, Nat.shiftRight_zero, Nat.one_and_eq_mod_two, Nat.shiftRight_succ]
    simp only [bne_eq_false_iff_eq]
    omega
  rw [h] at *
  rw [BitVec.toNat_sub]
  omega

/-! ## The PSW -/

/-- Bits 31:26 of the PSW are 0, so masking it changes nothing. -/
theorem psw_masked {w : Word} (h : w &&& 0xFC000000 = 0) : w &&& maskPsw = w := by
  have e : w &&& maskPsw ||| w &&& 0xFC000000 = w := by
    rw [← BitVec.and_or_distrib_left, show maskPsw ||| 0xFC000000 = BitVec.allOnes 32 by decide, BitVec.and_allOnes]
  rw [h] at e
  simpa using e

/-- The flags a PSW image holds after they are replaced. -/
theorem pswFlags_withFlags (f : BitVec 4) (w : Word) : pswFlags (withFlags f w &&& maskPsw) = f := by
  apply BitVec.eq_of_getLsbD_eq
  intro i hi
  have : i = 0 ∨ i = 1 ∨ i = 2 ∨ i = 3 := by omega
  rcases this with rfl | rfl | rfl | rfl <;>
    simp [pswFlags, withFlags, merge, maskFlags, maskPsw]

/-- The other bits stay. -/
theorem withFlags_rest (f : BitVec 4) {w : Word} (h : w &&& 0xFC000000 = 0) :
    withFlags f w &&& maskPsw &&& ~~~maskFlags = w &&& ~~~maskFlags := by
  have hw := psw_masked h
  have e : withFlags f w &&& maskPsw &&& ~~~maskFlags = w &&& maskPsw &&& ~~~maskFlags := by
    apply BitVec.eq_of_getLsbD_eq
    intro i hi
    simp only [withFlags, merge, BitVec.getLsbD_and, BitVec.getLsbD_or, BitVec.getLsbD_not, hi, decide_true,
      Bool.true_and]
    cases maskFlags.getLsbD i <;> simp
  rw [e, hw]

/-- Setting the flags sets the flags and nothing else. -/
theorem flagsAre_setFlags {s : State} (h : s.regs.psw &&& 0xFC000000 = 0) (f : BitVec 4) (keep : Bool) :
    FlagsAre keep f s (applyFlags keep f s) := by
  cases keep with
  | true => exact ⟨rfl, rfl⟩
  | false => exact ⟨pswFlags_withFlags f _, withFlags_rest f h⟩

/-- Setting the flags leaves the execution level. -/
theorem pswCm_withFlags (f : BitVec 4) (w : Word) : pswCm (withFlags f w &&& maskPsw) = pswCm w := by
  apply BitVec.eq_of_getLsbD_eq
  intro i hi
  have : i = 0 ∨ i = 1 := by omega
  rcases this with rfl | rfl <;> simp [pswCm, withFlags, merge, maskFlags, maskPsw]

@[simp] theorem accessLevel_setFlags (f : BitVec 4) (s : State) : accessLevel (setFlags f s) = accessLevel s := by
  simp only [accessLevel, currentLevel, setFlags_kernelForced]
  exact congrArg (fun c => if s.kernelForced = true then 0 else c) (pswCm_withFlags f s.regs.psw)

/-! ## A destination's write -/

theorem reg_applyFlags_ne {k : Bool} {f : BitVec 4} {s : State} {r : Reg} (h : r ≠ .psw) :
    reg (applyFlags k f s) r = reg s r := by
  cases k with
  | true => rfl
  | false => exact reg_setFlags_ne h f s

theorem sameMachine_applyFlags (k : Bool) (f : BitVec 4) (s : State) : SameMachine s (applyFlags k f s) := by
  cases k <;> exact ⟨rfl, rfl, rfl, rfl, rfl, rfl, rfl, rfl, rfl, rfl, rfl, rfl⟩

theorem sameMachine_setReg (r : Reg) (v : Word) (s : State) : SameMachine s (setReg r v s) :=
  ⟨rfl, rfl, rfl, rfl, rfl, rfl, rfl, rfl, rfl, rfl, rfl, rfl⟩

theorem sameMachine_advance (len : Nat) (s : State) : SameMachine s (advance len s) :=
  ⟨rfl, rfl, rfl, rfl, rfl, rfl, rfl, rfl, rfl, rfl, rfl, rfl⟩

theorem sameMachine_jump (t : Word) (s : State) : SameMachine s (jump t s) :=
  ⟨rfl, rfl, rfl, rfl, rfl, rfl, rfl, rfl, rfl, rfl, rfl, rfl⟩

theorem SameMachine.trans {s t w : State} (h : SameMachine s t) (g : SameMachine t w) : SameMachine s w :=
  ⟨g.1.trans h.1, g.2.trans h.2, g.3.trans h.3, g.4.trans h.4, g.5.trans h.5, g.6.trans h.6, g.7.trans h.7,
    g.8.trans h.8, g.9.trans h.9, g.10.trans h.10, g.11.trans h.11, g.12.trans h.12⟩

/-- What a merge leaves in the bits that exist. -/
theorem merge_masked (mask v w : Word) :
    merge mask v w &&& maskPsw = (w &&& (~~~mask &&& maskPsw)) ||| (v &&& (mask &&& maskPsw)) := by
  apply BitVec.eq_of_getLsbD_eq
  intro i hi
  simp only [merge, BitVec.getLsbD_and, BitVec.getLsbD_or]
  rw [Bool.and_or_distrib_right, Bool.and_assoc, Bool.and_assoc]

/-- Two states that show the memory system the same attributes reach the same places. -/
theorem writeReach_congr {s t : State} (h1 : accessLevel t = accessLevel s) (h2 : t.inputs = s.inputs)
    (h3 : t.virtualMode = s.virtualMode) (st : Status) (size : Size) (a v : Word) :
    writeReach t st size a v = writeReach s st size a v := by
  simp only [writeReach, access, reply, Reply.applies, translate, translating, h1, h2, h3]
  rfl

/-- Setting the flags leaves the places that writes reach. -/
@[simp] theorem writeReach_setFlags (f : BitVec 4) (s : State) (st : Status) (size : Size) (a v : Word) :
    writeReach (setFlags f s) st size a v = writeReach s st size a v :=
  writeReach_congr (t := setFlags f s) (accessLevel_setFlags f s) rfl rfl st size a v

theorem writeReach_applyFlags (k : Bool) (f : BitVec 4) (s : State) (st : Status) (size : Size) (a v : Word) :
    writeReach (applyFlags k f s) st size a v = writeReach s st size a v := by
  cases k with
  | true => rfl
  | false => exact writeReach_setFlags f s st size a v

/-- The write of a destination, after its flags and before the program counter moves: it succeeds where the place can be
stored to, and only the place, the flags and the program counter change (30_encoding R148). -/
theorem writePlace_wrote {s : State} (hi : s.Inv) {t : OType} {p : Place} (hp : p ≠ .register .pc)
    (hs : Storable t p s) (v : Word) (keep : Bool) (f : BitVec 4) (len : Nat) (hk : p = .register .psw → keep = true) :
    ∃ s', writePlace t p v (applyFlags keep f s) = .ok s' ∧ s'.regs.psw = (advance len s').regs.psw ∧
      Wrote t p v keep f len s (advance len s') := by
  have hf := flagsAre_setFlags hi.2.1 f keep
  have hm := sameMachine_applyFlags keep f s
  have hreg : ∀ r, r ≠ .psw → reg (applyFlags keep f s) r = reg s r := fun r hr => reg_applyFlags_ne hr
  have hpc : (applyFlags keep f s).regs.pc = s.regs.pc := hreg .pc (by decide)
  have hic : (applyFlags keep f s).icache = s.icache ∧ (applyFlags keep f s).iqueue = s.iqueue ∧
      (applyFlags keep f s).cacheCorrupt = s.cacheCorrupt ∧ (applyFlags keep f s).mem = s.mem := by
    cases keep <;> exact ⟨rfl, rfl, rfl, rfl⟩
  cases p with
  | memory a =>
    obtain ⟨hb, hs⟩ := hs
    obtain ⟨q, hq⟩ := Option.isSome_iff_exists.mp (hs v)
    have hb' : (applyFlags keep f s).bus = [] := by rw [hm.bus, hb]
    refine ⟨{ applyFlags keep f s with mem := deposited s.mem (typeSize t) q v }, ?_, rfl, ?_, ?_, ?_, ?_, q, hq, ?_⟩
    · rw [← hic.2.2.2]; exact storeAs_quiet hb' ((writeReach_applyFlags keep f s _ _ a v).trans hq) _
    · rw [if_neg (by simp)]
      exact hm.trans ⟨rfl, rfl, rfl, rfl, rfl, rfl, rfl, rfl, rfl, rfl, rfl, rfl⟩
    · exact ⟨congrArg (· + _) hpc, rfl, hic.1, hic.2.1, hic.2.2.1⟩
    · intro r _ h1 h2
      rw [reg_advance, if_neg h1]
      exact hreg r h2
    · exact hf
    · exact storedAt_deposited hi.1 rfl
  | register r =>
    by_cases hr : r = .psw
    · subst hr
      have hkeep := hk rfl
      subst hkeep
      refine ⟨writePsw v s, rfl, rfl, ?_, ?_⟩
      · have hte : pswTe (merge maskWritable v s.regs.psw) = pswTe v := by
          simp [pswTe, merge, maskWritable]
        rw [if_pos rfl]
        simp only [writePsw]
        split <;> exact ⟨rfl, rfl, rfl, rfl, congrArg (fun b => s.traceOpen || (b != pswTe s.regs.psw)) hte, rfl, rfl,
          rfl, rfl, rfl, rfl, rfl⟩
      · have hcd : pswCd (merge maskWritable v s.regs.psw) = pswCd v := by
          simp [pswCd, merge, maskWritable]
        have hpsw : (writePsw v s).regs.psw = merge maskWritable v s.regs.psw &&& maskPsw := by
          simp only [writePsw]; split <;> rfl
        refine ⟨?_, ?_, ?_, ?_, rfl, ?_, ?_, ?_⟩
        · intro r _ h1 h2
          rw [reg_advance, if_neg h1]
          simp only [writePsw]
          split <;> exact (reg_setPsw _ _ _).trans (if_neg h2)
        · intro x; simp only [writePsw]; split <;> rfl
        · exact hpsw.trans (merge_masked _ v s.regs.psw)
        · simp only [writePsw]; split <;> rfl
        · simp only [writePsw]; split <;> rfl
        · simp only [writePsw]; split <;> rfl
        · simp only [writePsw, hcd]
          split
          · rename_i h; simp [h]
          · rename_i h; simp [h]
    · have hw : ∀ g : State, writeOperandReg r v g = setReg r v g := fun g => by simp [writeOperandReg, hr]
      have hpc2 : r ≠ .pc := fun h => hp (h ▸ rfl)
      refine ⟨setReg r v (applyFlags keep f s), ?_, rfl, ?_, ?_⟩
      · simp only [writePlace, hw]
      · rw [if_neg (by simpa using hr)]
        exact (hm.trans (sameMachine_setReg _ _ _)).trans (sameMachine_advance _ _)
      · have main : GoesOn len s (advance len (setReg r v (applyFlags keep f s))) ∧
            RegsBut [r] s (advance len (setReg r v (applyFlags keep f s))) ∧
            SameMemory s (advance len (setReg r v (applyFlags keep f s))) ∧
            FlagsAre keep f s (advance len (setReg r v (applyFlags keep f s))) ∧
            reg (advance len (setReg r v (applyFlags keep f s))) r = v := by
          refine ⟨⟨?_, rfl, hic.1, hic.2.1, hic.2.2.1⟩, ?_, ?_, ?_, ?_⟩
          · show (setReg r v (applyFlags keep f s)).regs.pc + _ = _
            rw [pc_setReg, if_neg hpc2, hpc]
          · intro r' h0 h1 h2
            rw [reg_advance, if_neg h1, reg_setReg_ne (by simpa using h0), hreg r' h2]
          · intro x; exact congrArg (fun m => peek m x) hic.2.2.2
          · have e : (advance len (setReg r v (applyFlags keep f s))).regs.psw = (applyFlags keep f s).regs.psw := by
              show (setReg r v (applyFlags keep f s)).regs.psw = _
              rw [psw_setReg, if_neg hr]
            simp only [FlagsAre, flags] at hf ⊢
            rw [e]; exact hf
          · rw [reg_advance, if_neg hpc2, reg_setReg_self hr]
        cases r <;> first | exact absurd rfl hr | exact main

/-- The end of an instruction with a destination (30_encoding R152 steps 5 to 8). -/
theorem finish_wrote {s : State} (hi : s.Inv) {t : OType} {p : Place} (hp : p ≠ .register .pc) (hs : Storable t p s)
    (ps : Bool) (len : Nat) (r : Result) (hz : r.zeroDivide = false) :
    ∃ w, finish t p ps len r s = .ok (complete (overflowTrap p ps r && pswOe s.regs.psw) w) ∧
      Wrote t p r.value (ps || p == .register .psw) r.flags len s w := by
  obtain ⟨s', h1, h2, h3⟩ := writePlace_wrote hi hp hs r.value (ps || isPsw p) r.flags len (by rintro rfl; simp [isPsw])
  refine ⟨advance len s', ?_, h3⟩
  simp only [finish, hz, Bool.false_eq_true, if_false, h1]
  rfl

/-! ## The end of an instruction -/

/-- No trap is due: the instruction is over. -/
theorem complete_quiet {s : State} (h : s.pendingOverflow = false) (ho : s.traceOpen = false)
    (ht : (pswTe s.regs.psw && pswTm s.regs.psw) = false) : complete false s = s := by
  cases s
  simp only at h ho
  subst h ho
  simp [complete, traceTest, traceDue, ht]

end Sys2Proof.Machine
end

