-- ==== Sys2Proof/Laws/Blocks.lean ====
section
/-! SUPPORT. Words of memory: what an aligned word reads as after another was stored, and what a row of words stored or
loaded at 4-byte steps leaves. -/

namespace Sys2Proof.Machine

/-! ## Aligned words -/

/-- A word address is aligned if its number is a multiple of 4. -/
theorem aligned_iff (a : Word) : Aligned a ↔ a.toNat % 4 = 0 := by
  simp only [Aligned, misaligned, Bool.or_eq_false_iff, BitVec.getLsbD, Nat.testBit, Nat.shiftRight_zero,
    Nat.one_and_eq_mod_two, Nat.shiftRight_succ, bne_eq_false_iff_eq]
  omega

/-- Two aligned words that differ do not overlap. -/
theorem not_covers_aligned {a b : Word} (ha : Aligned a) (hb : Aligned b) (h : a ≠ b) {k : Nat} (hk : k < 4) :
    ¬covers .word a (b + BitVec.ofNat 32 k) := by
  rw [aligned_iff] at ha hb
  have hn : a.toNat ≠ b.toNat := fun e => h (BitVec.eq_of_toNat_eq e)
  have := a.isLt
  have := b.isLt
  simp only [covers, Size.bytes, BitVec.toNat_sub, BitVec.toNat_add, BitVec.toNat_ofNat]
  omega

/-- A datum reads the same in memories whose bytes it covers agree. -/
theorem readData_congr {m m' : Memory} {size : Size} {a : Word}
    (h : ∀ k, k < size.bytes → peek m' (a + BitVec.ofNat 32 k) = peek m (a + BitVec.ofNat 32 k)) :
    readData m' size a = readData m size a := by
  have h0 : 0 < size.bytes → peek m' a = peek m a := by simpa using h 0
  have h1 : 1 < size.bytes → peek m' (a + 1) = peek m (a + 1) := h 1
  have h2 : 2 < size.bytes → peek m' (a + 2) = peek m (a + 2) := h 2
  have h3 : 3 < size.bytes → peek m' (a + 3) = peek m (a + 3) := h 3
  cases size with
  | byte => simp only [readData, h0 (by decide)]
  | half => simp only [readData, h0 (by decide), h1 (by decide)]
  | word => simp only [readData, h0 (by decide), h1 (by decide), h2 (by decide), h3 (by decide)]

/-- An aligned word reads as it was before another aligned word was stored. -/
theorem readData_writeData_ne {m : Memory} (h : m.wf = true) {a b : Word} (ha : Aligned a) (hb : Aligned b) (hn : a ≠ b)
    (v : Word) : readData (writeData m .word a v) .word b = readData m .word b :=
  readData_congr fun _ hk => peek_writeData_other h (not_covers_aligned ha hb hn hk) v

/-- What an aligned word reads as after an aligned word was stored. -/
theorem readData_writeData_word {m : Memory} (h : m.wf = true) {a b : Word} (ha : Aligned a) (hb : Aligned b)
    (v : Word) : readData (writeData m .word a v) .word b = if b = a then v else readData m .word b := by
  split
  · rename_i e; subst e; exact readData_writeData h .word b v
  · rename_i e; exact readData_writeData_ne h ha hb (Ne.symm e) v

/-- An aligned word reads the same in memories that agree outside bytes it does not meet. -/
theorem readData_outside {m m' : Memory} {a b : Word} {n : Nat} (ha : Aligned a) (hb : Aligned b)
    (h : ∀ x, ¬(x - a).toNat < 4 * n → peek m' x = peek m x) (hd : ¬(b - a).toNat < 4 * n) :
    readData m' .word b = readData m .word b := by
  rw [aligned_iff] at ha hb
  refine readData_congr fun k hk => h _ ?_
  have := a.isLt
  have := b.isLt
  simp only [Size.bytes] at hk
  simp only [BitVec.toNat_sub, BitVec.toNat_add, BitVec.toNat_ofNat] at hd ⊢
  omega

theorem aligned_step (k : Nat) : Aligned (BitVec.ofNat 32 (4 * k)) := by
  rw [aligned_iff, BitVec.toNat_ofNat]; omega

theorem four : BitVec.toNat (4 : Word) = 4 := rfl

/-! ## Rows of words -/

/-- Storing a row of words: memory alone changes, to the words in the row (20_memory R70). -/
theorem storeWords_plain {e : Exn} {vs : List Word} {a : Word} {s : State} (hp : Plain s) (hw : s.mem.wf = true)
    (ha : Aligned a) (hn : vs.length < 2 ^ 30) :
    ∃ m, storeWords e a vs s = .ok { s with mem := m } ∧ m.wf = true ∧ WordsAt a vs s { s with mem := m } := by
  induction vs generalizing a s with
  | nil => exact ⟨s.mem, rfl, hw, by simp, fun x _ => rfl⟩
  | cons v rest ih =>
    simp only [List.length_cons] at hn
    have ha4 : Aligned (a + 4) := ha.add (k := 4) rfl
    have hw' := wf_writeData hw .word a v
    obtain ⟨m, h1, h2, h3, h4⟩ := ih (s := { s with mem := writeData s.mem .word a v }) (a := a + 4) hp hw' ha4
      (by omega)
    have step : ∀ k : Nat, a + 4 + BitVec.ofNat 32 (4 * k) = a + BitVec.ofNat 32 (4 * (k + 1)) := by
      intro k
      rw [BitVec.add_assoc, show (4 : Word) = BitVec.ofNat 32 4 from rfl, ← BitVec.ofNat_add, Nat.mul_add, Nat.add_comm]
    refine ⟨m, ?_, h2, ?_, ?_⟩
    · simp only [storeWords, store_plain hp ha, bind, Except.bind, h1]
    · intro k hk
      cases k with
      | zero =>
        have hd : ¬(a - (a + 4)).toNat < 4 * rest.length := by
          have := a.isLt
          simp only [BitVec.toNat_sub, BitVec.toNat_add, four]
          omega
        show readData m .word (a + BitVec.ofNat 32 0) = v
        rw [show a + BitVec.ofNat 32 0 = a by simp, readData_outside ha4 ha h4 hd]
        exact readData_writeData hw .word a v
      | succ k =>
        have := h3 k (by simpa using hk)
        rw [step] at this
        simpa using this
    · intro x hx
      simp only [List.length_cons] at hx
      have e : ¬covers .word a x → peek (writeData s.mem .word a v) x = peek s.mem x := fun h =>
        peek_writeData_other hw h v
      refine (h4 x ?_).trans (e ?_)
      · have := a.isLt
        have := x.isLt
        simp only [BitVec.toNat_sub, BitVec.toNat_add, four] at hx ⊢
        omega
      · simp only [covers, Size.bytes]
        omega

/-- Loading a row of words into registers that are not the PSW: those registers alone change (20_memory R70). -/
theorem loadRegs_plain {e : Exn} {rs : List Reg} {a : Word} {s : State} (hp : Plain s) (ha : Aligned a)
    (hn : rs.Nodup) (hq : .psw ∉ rs) :
    ∃ g, loadRegs e a rs s = .ok { s with regs := g } ∧ (∀ r, r ∉ rs → readReg r g = reg s r) ∧
      ∀ k r, rs[k]? = some r → readReg r g = wordAt s (a + BitVec.ofNat 32 (4 * k)) := by
  induction rs generalizing a s with
  | nil => exact ⟨s.regs, rfl, fun _ _ => rfl, by simp⟩
  | cons r rest ih =>
    simp only [List.nodup_cons, List.mem_cons, not_or] at hn hq
    have ha4 : Aligned (a + 4) := ha.add (k := 4) rfl
    obtain ⟨g, h1, h2, h3⟩ := ih (s := setReg r (wordAt s a) s) (a := a + 4) hp ha4 hn.2 hq.2
    refine ⟨g, ?_, ?_, ?_⟩
    · simp only [loadRegs, load_plain hp ha, bind, Except.bind, h1]; rfl
    · intro r' hr
      simp only [List.mem_cons, not_or] at hr
      rw [h2 r' hr.2, reg_setReg_ne hr.1]
    · intro k r' hk
      cases k with
      | zero =>
        simp only [List.getElem?_cons_zero, Option.some.injEq] at hk
        subst hk
        rw [h2 r hn.1, reg_setReg_self (Ne.symm hq.1)]
        simp
      | succ k =>
        have := h3 k r' (by simpa using hk)
        rw [this]
        have step : a + 4 + BitVec.ofNat 32 (4 * k) = a + BitVec.ofNat 32 (4 * (k + 1)) := by
          rw [BitVec.add_assoc, show (4 : Word) = BitVec.ofNat 32 4 from rfl, ← BitVec.ofNat_add, Nat.mul_add,
            Nat.add_comm]
        rw [step]; rfl

end Sys2Proof.Machine
end

