-- ==== Sys2Proof/Laws/Coding.lean ====
section
/-! SUPPORT. Reading back what was written: numbers, data, operands, and the roles of operands. -/

namespace Sys2Proof

/-! ## Numbers -/

@[simp] theorem Reg.ofNum_num (r : Reg) : Reg.ofNum r.num = r := by cases r <;> rfl

@[simp] theorem OType.ofNum_num (t : OType) : OType.ofNum t.num = some t := by cases t <;> rfl

@[simp] theorem descriptor_high (m r : BitVec 4) : (descriptor m r).extractLsb' 4 4 = m := by
  revert m r; decide

@[simp] theorem descriptor_low (m r : BitVec 4) : (descriptor m r).extractLsb' 0 4 = r := by
  revert m r; decide

theorem isTypeByte_descriptor (m r : BitVec 4) : isTypeByte (descriptor m r) = (m == 14 && r != 15) := by
  simp [isTypeByte]

/-! ## Data -/

/-- The bytes of the stream are what was encoded. -/
abbrev bytes (l : List Byte) : Stream := l.map some

theorem half_join (v : Half) : v.extractLsb' 8 8 ++ v.extractLsb' 0 8 = v := by
  apply BitVec.eq_of_getLsbD_eq
  intro i hi
  simp only [BitVec.getLsbD_append, BitVec.getLsbD_extractLsb']
  by_cases h1 : i < 8
  · simp [h1]
  · simp [h1, show i - 8 < 8 by omega, show 8 + (i - 8) = i by omega]

theorem word_join (v : Word) : v.extractLsb' 16 16 ++ v.extractLsb' 0 16 = v := by
  apply BitVec.eq_of_getLsbD_eq
  intro i hi
  simp only [BitVec.getLsbD_append, BitVec.getLsbD_extractLsb']
  by_cases h1 : i < 16
  · simp [h1]
  · simp [h1, show i - 16 < 16 by omega, show 16 + (i - 16) = i by omega]

@[simp] theorem takeByte_cons (b : Byte) (rest : Stream) : takeByte (some b :: rest) = .ok (b, rest) := rfl

theorem takeHalf_encode (v : Half) (rest : Stream) : takeHalf (bytes (encodeHalf v) ++ rest) = .ok (v, rest) := by
  simp [takeHalf, encodeHalf, Parse.andThen, half_join]

theorem takeWord_encode (v : Word) (rest : Stream) : takeWord (bytes (encodeWord v) ++ rest) = .ok (v, rest) := by
  simp [takeWord, encodeWord, Parse.andThen, takeHalf_encode, word_join]

/-! ## Operands -/

theorem literal_high (v : BitVec 6) :
    ((v.zeroExtend 8).extractLsb' 4 4).toNat = 0 ∨ ((v.zeroExtend 8).extractLsb' 4 4).toNat = 1 ∨
      ((v.zeroExtend 8).extractLsb' 4 4).toNat = 2 ∨ ((v.zeroExtend 8).extractLsb' 4 4).toNat = 3 := by
  revert v; decide

theorem literal_low (v : BitVec 6) : (v.zeroExtend 8).extractLsb' 0 6 = v := by revert v; decide

theorem Reg.num_ne {r : Reg} (h : r ≠ .pc) : r.num ≠ 15 := by cases r <;> first | exact absurd rfl h | decide

/-- The first byte of a mode is no expanded-type byte, and the mode reads back (30_encoding R128). -/
theorem Mode.encode_cons (m : Mode) (h : m.wellFormed = true) :
    ∃ d ds, m.encode = d :: ds ∧ isTypeByte d = false ∧ ∀ rest, parseMode d (bytes ds ++ rest) = .ok (m, rest) := by
  cases m with
  | literal v =>
    refine ⟨v.zeroExtend 8, [], rfl, by revert v; decide, fun rest => ?_⟩
    simp only [parseMode, bytes, List.map_nil, List.nil_append, literal_low]
    rcases literal_high v with e | e | e | e <;> (rw [e]; rfl)
  | negLiteral v =>
    refine ⟨_, [], rfl, by revert v; decide, fun rest => ?_⟩
    simp [parseMode]
  | immediate d =>
    cases d with
    | byte v =>
      refine ⟨_, _, rfl, by simp [isTypeByte_descriptor, Datum.immediateMode], fun rest => ?_⟩
      simp [parseMode, Datum.immediateMode, Datum.encode, Parse.mode, Parse.andThen]
    | half v =>
      refine ⟨_, _, rfl, by simp [isTypeByte_descriptor, Datum.immediateMode], fun rest => ?_⟩
      simp [parseMode, Datum.immediateMode, Datum.encode, takeHalf_encode, Parse.mode, Parse.andThen]
    | word v =>
      refine ⟨_, _, rfl, by simp [isTypeByte_descriptor, Datum.immediateMode], fun rest => ?_⟩
      simp [parseMode, Datum.immediateMode, Datum.encode, takeWord_encode, Parse.mode, Parse.andThen]
  | register r =>
    have hr : r ≠ .pc := by simpa [Mode.wellFormed] using h
    refine ⟨_, [], rfl, by cases r <;> rfl, fun rest => ?_⟩
    simpa [parseMode] using fun e => absurd e (Reg.num_ne hr)
  | deferred r =>
    have hr : r ≠ .psw ∧ r ≠ .pc := by simpa [Mode.wellFormed] using h
    refine ⟨_, [], rfl, by cases r <;> rfl, fun rest => ?_⟩
    simpa [parseMode] using fun e => absurd e (Reg.num_ne hr.2)
  | fpOffset n =>
    have hn : n ≠ 15 := by simpa [Mode.wellFormed] using h
    refine ⟨_, [], rfl, by revert n; decide, fun rest => ?_⟩
    simpa [parseMode] using fun e => absurd e hn
  | apOffset n =>
    have hn : n ≠ 15 := by simpa [Mode.wellFormed] using h
    refine ⟨_, [], rfl, by revert n; decide, fun rest => ?_⟩
    simpa [parseMode] using fun e => absurd e hn
  | displacement d r =>
    cases d with
    | byte v =>
      refine ⟨_, _, rfl, by simp [isTypeByte_descriptor, Datum.displacementMode], fun rest => ?_⟩
      simp [parseMode, Datum.displacementMode, Datum.encode, Parse.mode, Parse.andThen]
    | half v =>
      refine ⟨_, _, rfl, by simp [isTypeByte_descriptor, Datum.displacementMode], fun rest => ?_⟩
      simp [parseMode, Datum.displacementMode, Datum.encode, takeHalf_encode, Parse.mode, Parse.andThen]
    | word v =>
      refine ⟨_, _, rfl, by simp [isTypeByte_descriptor, Datum.displacementMode], fun rest => ?_⟩
      simp [parseMode, Datum.displacementMode, Datum.encode, takeWord_encode, Parse.mode, Parse.andThen]
  | displacementDeferred d r =>
    cases d with
    | byte v =>
      refine ⟨_, _, rfl, by simp [isTypeByte_descriptor, Datum.deferredMode], fun rest => ?_⟩
      simp [parseMode, Datum.deferredMode, Datum.encode, Parse.mode, Parse.andThen]
    | half v =>
      refine ⟨_, _, rfl, by simp [isTypeByte_descriptor, Datum.deferredMode], fun rest => ?_⟩
      simp [parseMode, Datum.deferredMode, Datum.encode, takeHalf_encode, Parse.mode, Parse.andThen]
    | word v =>
      refine ⟨_, _, rfl, by simp [isTypeByte_descriptor, Datum.deferredMode], fun rest => ?_⟩
      simp [parseMode, Datum.deferredMode, Datum.encode, takeWord_encode, Parse.mode, Parse.andThen]
  | absolute a =>
    refine ⟨_, _, rfl, rfl, fun rest => ?_⟩
    simp [parseMode, takeWord_encode, Parse.mode, Parse.andThen]
  | absoluteDeferred a =>
    refine ⟨_, _, rfl, rfl, fun rest => ?_⟩
    simp [parseMode, takeWord_encode, Parse.mode, Parse.andThen]

/-- An operand reads back (30_encoding R128, R142). -/
theorem parseOperand_encode (o : Operand) (h : o.mode.wellFormed = true) (rest : Stream) :
    parseOperand (bytes o.encode ++ rest) = .ok (o, rest) := by
  obtain ⟨d, ds, he, ht, hp⟩ := o.mode.encode_cons h
  obtain ⟨ty, m⟩ := o
  cases ty with
  | none => simp_all [Operand.encode, parseOperand, Parse.andThen]
  | some t =>
    have hb : isTypeByte (descriptor 14 t.num) = true := by cases t <;> decide
    simp_all [Operand.encode, parseOperand, Parse.andThen]

/-- A well-formed operand is one the processor accepts (30_encoding R145, R146, R150). -/
theorem accepts_of_wellFormed {role : Role} {o : Operand} (h : o.wellFormed role = true) : role.accepts o = true := by
  obtain ⟨ty, m⟩ := o
  simp only [Operand.wellFormed, Bool.and_eq_true] at h
  obtain ⟨⟨h1, h2⟩, h3⟩ := h
  unfold Role.accepts
  cases role <;> cases m <;> cases ty <;>
    simp_all [Role.allowsType, Role.allowsMode, Mode.isConstant, Mode.isRegister, Mode.wellFormed]

/-- One well-formed operand, then the rest of the instruction. -/
theorem withOperand_encode {α : Type} {role : Role} {o : Operand} (h : o.wellFormed role = true) (rest : Stream)
    (k : Operand → Stream → Parse α) : withOperand role (bytes o.encode ++ rest) k = k o rest := by
  have hm : o.mode.wellFormed = true := by
    simp only [Operand.wellFormed, Bool.and_eq_true] at h; exact h.1.1
  simp only [withOperand, parseOperand_encode o hm, Parse.andThen, guardLater]
  split
  · rename_i e; exact e.symm
  · rename_i e; rw [accepts_of_wellFormed h, if_pos rfl, e]

/-! ## Lengths -/

@[simp] theorem encodeHalf_length (v : Half) : (encodeHalf v).length = 2 := rfl

@[simp] theorem encodeWord_length (v : Word) : (encodeWord v).length = 4 := rfl

theorem Datum.encode_length (d : Datum) : d.encode.length = d.length := by cases d <;> rfl

/-- The length of an operand is the number of its bytes (30_encoding R124). -/
theorem Operand.encode_length (o : Operand) : o.encode.length = o.length := by
  obtain ⟨ty, m⟩ := o
  cases ty <;> cases m <;> simp [Operand.encode, Mode.encode, Operand.length, Mode.length, Datum.encode_length] <;> omega

/-- An operand has one to six bytes (30_encoding R124). -/
theorem Operand.length_bounds (o : Operand) : 1 ≤ o.encode.length ∧ o.encode.length ≤ 6 := by
  rw [Operand.encode_length]
  obtain ⟨ty, m⟩ := o
  have hd : ∀ d : Datum, 1 ≤ d.length ∧ d.length ≤ 4 := by intro d; cases d <;> simp [Datum.length]
  have ht : (if ty.isSome = true then 1 else 0) ≤ 1 := by split <;> omega
  cases m <;> simp only [Operand.length, Mode.length] <;> first | omega | (rename_i d _; have := hd d; omega) | (rename_i d; have := hd d; omega)

end Sys2Proof
end

