-- ==== Sys2Proof/Laws/Fetch.lean ====
section
/-! SUPPORT. What fetching instructions, sampling the environment and a step of the block moves can do. -/

namespace Sys2Proof.Machine

/-! ## The instruction stream -/

/-- Fetching changes nothing where nothing happens on the bus. -/
theorem fetchWords_quiet {s : State} (hb : s.bus = []) (a : Word) : ∃ held, fetchWords a s = .ok (held, s) := by
  simp only [fetchWords, busTurn_quiet hb, bind, Except.bind]
  split <;> exact ⟨_, rfl⟩

theorem fetchByte_quiet {s : State} (hb : s.bus = []) (held : Words) (a : Word) :
    ∃ b held', fetchByte held a s = .ok (b, held', s) := by
  obtain ⟨w, h⟩ := fetchWords_quiet hb a
  simp only [fetchByte, h, bind, Except.bind]
  split <;> exact ⟨_, _, rfl⟩

theorem fetchFrom_quiet {s : State} (hb : s.bus = []) (n : Nat) (bytes : Stream) (held : Words) (a : Word) :
    ∃ bytes' held', fetchFrom n bytes held a s = .ok (bytes', held', s) := by
  induction n generalizing bytes held a with
  | zero => exact ⟨_, _, rfl⟩
  | succ n ih =>
    obtain ⟨b, held', h⟩ := fetchByte_quiet hb held a
    simp only [fetchFrom, h, bind, Except.bind]
    split
    · exact ih _ _ _
    · exact ⟨_, _, rfl⟩

theorem instructionStream_quiet {s : State} (hb : s.bus = []) {bytes : Stream} {held : Words} {t : State}
    (h : instructionStream s = .ok (bytes, held, t)) : t = s := by
  obtain ⟨_, _, h'⟩ := fetchFrom_quiet hb maxLength [] [] s.regs.pc
  rw [instructionStream, h'] at h
  cases h
  rfl

/-- Fetching keeps what every shared operation keeps. -/
theorem Held.fetchWords {calm : Bool} {s : State} (h : Held calm s) (a : Word) :
    Ends (HeldWith calm) (Held calm) (fetchWords a s) := by
  refine h.busTurn.bind fun s h => ?_
  split
  · exact h.busTurn.bind fun s h => h
  · exact h

theorem Held.fetchByte {calm : Bool} {s : State} (h : Held calm s) (held : Words) (a : Word) :
    Ends (fun x => Held calm x.2.2) (Held calm) (fetchByte held a s) := by
  simp only [Machine.fetchByte]
  split
  · exact h
  · exact (h.fetchWords a).bindWith fun _ _ h => h

theorem Held.fetchFrom {calm : Bool} {s : State} (h : Held calm s) (n : Nat) (bytes : Stream) (held : Words) (a : Word) :
    Ends (fun x => Held calm x.2.2) (Held calm) (fetchFrom n bytes held a s) := by
  induction n generalizing bytes held a s with
  | zero => exact h
  | succ n ih =>
    refine (h.fetchByte held a).bind fun x hx => ?_
    dsimp only
    split
    · exact ih hx _ _ _
    · exact hx

theorem Held.instructionStream {calm : Bool} {s : State} (h : Held calm s) :
    Ends (fun x => Held calm x.2.2) (Held calm) (instructionStream s) := h.fetchFrom _ _ _ _

/-- The queue an instruction begins with has at most 8 bytes (00_scope R7). -/
theorem Held.keepQueue {calm : Bool} {s : State} (h : Held calm s) (len : Nat) (held : Words) :
    Held calm (keepQueue len held s) :=
  ⟨h.1, h.2.1, h.2.2.1, h.2.2.2.1, List.length_take_le _ _⟩

theorem Held.beginInstruction {calm : Bool} {s : State} (h : Held calm s) : Held calm (beginInstruction s) :=
  h.setPsw (withTm true s.regs.psw)

/-! ## Fetching from memory alone -/

/-- An address is its word's and a place in the word. -/
theorem word_split (a : Word) : ∃ b c : Word, wordAddress a = b ∧ a &&& 3 = c ∧ a = b + c ∧
    (c = 0 ∨ c = 1 ∨ c = 2 ∨ c = 3) := by
  refine ⟨_, _, rfl, rfl, ?_, ?_⟩
  · rw [wordAddress, BitVec.add_eq_or_of_and_eq_zero]
    · rw [← BitVec.and_or_distrib_left]; exact (BitVec.and_allOnes ..).symm
    · rw [BitVec.and_assoc, ← BitVec.and_assoc _ a, BitVec.and_comm _ a, BitVec.and_assoc a]
      simp
  · have h : a &&& 3 = BitVec.ofNat 32 (a.toNat % 4) := by
      apply BitVec.eq_of_toNat_eq
      rw [BitVec.toNat_and, show (3 : Word).toNat = 2 ^ 2 - 1 from rfl, Nat.and_two_pow_sub_one_eq_mod]
      simp; omega
    rw [h]
    rcases (by omega : a.toNat % 4 = 0 ∨ a.toNat % 4 = 1 ∨ a.toNat % 4 = 2 ∨ a.toNat % 4 = 3) with e | e | e | e <;>
      rw [e] <;> simp

/-- The bytes of a word of four bytes. -/
theorem word_bytes (p q r t : Byte) : let w : Word := ((p ++ q) ++ r) ++ t
    w.extractLsb' 24 8 = p ∧ w.extractLsb' 16 8 = q ∧ w.extractLsb' 8 8 = r ∧ w.extractLsb' 0 8 = t := by
  have e : BitVec.toNat (((p ++ q) ++ r) ++ t) = ((p.toNat * 256 + q.toNat) * 256 + r.toNat) * 256 + t.toNat := by
    simp only [BitVec.toNat_append]
    rw [← Nat.shiftLeft_add_eq_or_of_lt q.isLt, ← Nat.shiftLeft_add_eq_or_of_lt r.isLt,
      ← Nat.shiftLeft_add_eq_or_of_lt t.isLt]
    simp only [Nat.shiftLeft_eq]
  have := p.isLt; have := q.isLt; have := r.isLt; have := t.isLt
  refine ⟨?_, ?_, ?_, ?_⟩ <;> apply BitVec.eq_of_toNat_eq <;> rw [BitVec.extractLsb'_toNat] <;> erw [e] <;>
    simp only [Nat.shiftRight_eq_div_pow] <;> omega

/-- The byte at an address, taken from the word it is in (20_memory R70). -/
theorem laneByte_readData (m : Memory) (a : Word) : laneByte (readData m .word (wordAddress a)) a = peek m a := by
  obtain ⟨b, c, h1, h2, h3, h4⟩ := word_split a
  simp only [laneByte, h1, h2, readData]
  rw [h3]
  obtain ⟨x, y, z, t⟩ := word_bytes (peek m b) (peek m (b + 1)) (peek m (b + 2)) (peek m (b + 3))
  rcases h4 with rfl | rfl | rfl | rfl
  · simpa using x
  · exact y
  · exact z
  · exact t

/-- Words that are what memory holds. -/
def Fresh (m : Memory) (held : Words) : Prop := ∀ e ∈ held, e.2 = readData m .word e.1

theorem Fresh.heldWord {m : Memory} {held : Words} (f : Fresh m held) {a w : Word} (e : heldWord held a = some w) :
    w = readData m .word a := by
  induction held with
  | nil => cases e
  | cons x rest ih =>
    simp only [Machine.heldWord] at e
    split at e
    · rename_i k; cases e; rw [f x (List.mem_cons_self ..), k]
    · exact ih (fun y hy => f y (List.mem_cons_of_mem _ hy)) e

theorem Fresh.wordsByte {m : Memory} {held : Words} (f : Fresh m held) {a : Word} {b : Byte}
    (e : wordsByte held a = some b) : b = peek m a := by
  simp only [Machine.wordsByte, Option.map_eq_some_iff] at e
  obtain ⟨w, hw, rfl⟩ := e
  rw [f.heldWord hw, laneByte_readData]

theorem Fresh.wordsBytes {m : Memory} {held : Words} (f : Fresh m held) (a : Word) (n : Nat) :
    (wordsBytes held a n).length ≤ n ∧ ∀ k, k < (wordsBytes held a n).length →
      (wordsBytes held a n)[k]? = some (peek m (a + BitVec.ofNat 32 k)) := by
  induction n generalizing a with
  | zero => exact ⟨Nat.le_refl 0, fun k hk => absurd hk (Nat.not_lt_zero k)⟩
  | succ n ih =>
    simp only [Machine.wordsBytes]
    cases e : Machine.wordsByte held a with
    | none => exact ⟨Nat.zero_le _, fun k hk => absurd hk (Nat.not_lt_zero k)⟩
    | some b =>
      refine ⟨Nat.succ_le_succ (ih (a + 1)).1, fun k hk => ?_⟩
      cases k with
      | zero => simp [f.wordsByte e]
      | succ k =>
        simp only [List.length_cons] at hk
        simp only [List.getElem?_cons_succ]
        rw [(ih (a + 1)).2 k (by omega), BitVec.add_assoc, show (1 : Word) = BitVec.ofNat 32 1 from rfl,
          ← BitVec.ofNat_add, Nat.add_comm 1 k]

/-- What a transaction delivers where only memory answers: the word, perhaps the next one, as memory has them. -/
theorem delivered_plain {s : State} (hp : Plain s) (st : Status) (size : BusSize) (a : Word) :
    Fresh s.mem (delivered st size s a) ∧ (heldWord (delivered st size s a) (wordAddress a)).isSome = true := by
  simp only [delivered, access_plain hp, received]
  refine ⟨fun e he => ?_, by simp [heldWord]⟩
  simp only [List.mem_cons, List.mem_map, Option.mem_toList] at he
  rcases he with rfl | ⟨w, hw, rfl⟩
  · rfl
  · simp only [blockSecond] at hw
    split at hw
    · cases hw
    · rw [show reply s st size .fetch (wordAddress a) 0 = none by simp [reply, hp.2.1]] at hw
      simp [Machine.translate, translating, hp.1] at hw
      exact hw.2.symm

theorem fetchWords_plain {s : State} (hp : Plain s) (a : Word) :
    ∃ held, fetchWords a s = .ok (held, s) ∧ Fresh s.mem held ∧ (heldWord held (wordAddress a)).isSome = true := by
  obtain ⟨f, g⟩ := delivered_plain hp (fetchStatus s a) .doubleWord a
  simp only [fetchWords, busTurn_quiet hp.2.2, bind, Except.bind]
  split
  · rename_i w e
    rw [e] at f g
    refine ⟨_, rfl, fun x hx => ?_, ?_⟩
    · rcases List.mem_cons.mp hx with rfl | hx
      · exact f _ (List.mem_cons_self ..)
      · exact (delivered_plain hp _ _ _).1 x hx
    · simp only [heldWord] at g ⊢
      split at g
      · rename_i k; simp [k]
      · cases g
  · exact ⟨_, rfl, f, g⟩

/-- IFetch where only memory answers and neither the cache nor the queue holds anything: the byte memory has (30_encoding
R121). -/
theorem fetchByte_plain {s : State} (hp : Plain s) (hc : ∀ a, cachedByte s a = none) (hq : s.iqueue = []) {held : Words}
    (f : Fresh s.mem held) (a : Word) :
    ∃ held', fetchByte held a s = .ok (some (peek s.mem a), held', s) ∧ Fresh s.mem held' := by
  have q : ∀ n : Nat, (queued s)[n]? = none := by intro n; simp [queued, hq]
  simp only [fetchByte, byteAtHand, q, hc]
  cases e : wordsByte held a with
  | some b => exact ⟨held, by rw [f.wordsByte e], f⟩
  | none =>
    obtain ⟨held', e', f', g⟩ := fetchWords_plain hp a
    obtain ⟨w, hw⟩ := Option.isSome_iff_exists.mp g
    have : wordsByte held' a = some (peek s.mem a) := by
      simp only [wordsByte, hw, Option.map_some, f'.heldWord hw, laneByte_readData]
    exact ⟨held', by simp only [e', bind, Except.bind, this], f'⟩

/-! ## Prefetch and the environment's turn between steps -/

theorem mem_cachedWords {cells : List (Word × Byte)} {x : Word} (h : x ∈ cachedWords cells) :
    ∃ e ∈ cells, wordAddress e.1 = x := by
  induction cells with
  | nil => cases h
  | cons e rest ih =>
    rcases List.mem_cons.mp h with rfl | h
    · exact ⟨e, List.mem_cons_self .., rfl⟩
    · obtain ⟨y, hy, k⟩ := ih (List.mem_filter.mp h).1
      exact ⟨y, List.mem_cons_of_mem _ hy, k⟩

theorem nodup_cachedWords (cells : List (Word × Byte)) : (cachedWords cells).Nodup := by
  induction cells with
  | nil => exact List.nodup_nil
  | cons e rest ih => exact List.nodup_cons.mpr ⟨by simp [List.mem_filter], ih.filter _⟩

/-- The pairs of the latest n words are of at most n words. -/
theorem latestWords_bound (n : Nat) (cells : List (Word × Byte)) : (cachedWords (latestWords n cells)).length ≤ n := by
  have h : cachedWords (latestWords n cells) ⊆ (cachedWords cells).take n := fun x hx => by
    obtain ⟨e, he, rfl⟩ := mem_cachedWords hx
    simpa using (List.mem_filter.mp he).2
  exact ((nodup_cachedWords _).subperm h).length_le.trans (List.length_take_le ..)

/-- The cache holds bytes of at most 64 words after a fill (00_scope R7). -/
theorem State.Inv.fillCache {s : State} (h : s.Inv) (i : Inputs) : (fillCache i s).Inv := by
  simp only [Machine.fillCache]
  split
  · exact h
  · exact ⟨h.1, h.2.1, h.2.2.1, latestWords_bound 64 _, h.2.2.2.2⟩

/-- The queue holds at most 8 bytes after a fill (00_scope R7). -/
theorem State.Inv.fillQueue {s : State} (h : s.Inv) (n : Nat) (held : Words) : (fillQueue n held s).Inv := by
  induction n generalizing held s with
  | zero => exact h
  | succ n ih =>
    simp only [Machine.fillQueue]
    split
    · split
      · rename_i hl
        apply ih
        refine ⟨h.1, h.2.1, h.2.2.1, h.2.2.2.1, ?_⟩
        simp only [List.length_append, List.length_singleton]
        omega
      · exact h
    · exact h

/-- Sampling the environment keeps the invariant. -/
theorem State.Inv.sample {s : State} (h : s.Inv) : (sample s).Inv := by
  unfold Machine.sample
  dsimp only
  split
  · exact ⟨h.1, h.2.1, h.2.2⟩
  · rename_i i rest _
    have h0 : State.Inv { s with free := s.free + 1, upcoming := rest, inputs := i } := ⟨h.1, h.2.1, h.2.2⟩
    have masters : ∀ u : State, u.Inv → State.Inv { u with mem := busWritten u.mem i.busWrites } :=
      fun u hu => ⟨wf_busWritten hu.1 _, hu.2.1, hu.2.2⟩
    simp only [absorb]
    apply masters
    split
    · exact (h0.fillCache i).fillQueue _ _
    · exact h0

/-! ## A step of the block moves -/

/-- What a step of the block moves answers. -/
theorem moved_ok (o : Switch) (s : State) : moved o (.ok s) = .next s := by cases o <;> rfl

theorem moved_error (o : Switch) (e : Exn) (s : State) :
    moved o (.error (e, s)) = .next (if o = .interrupt then raise e s else fault e s) := by cases o <;> rfl

/-- A step of the block moves keeps the invariant if its computation does. -/
theorem ends_moved {o : Switch} {r : Run State} (h : Ends State.Inv (Held false) r) {t : State}
    (e : moved o r = .next t) : t.Inv := by
  cases r with
  | ok s => rw [moved_ok] at e; cases e; exact h
  | error x =>
    rw [moved_error] at e
    cases e
    split
    · exact held_raise h _
    · exact held_fault h _

end Sys2Proof.Machine
end

