-- ==== Sys2Proof/Laws/PerInstr.lean ====
section
/-! SUPPORT. What holds of every instruction as syntax, one lemma per constructor. -/

namespace Sys2Proof.Laws

/-- An instruction has 1 to 25 bytes (30_encoding R124). -/
def EncodeLength.Statement (i : Instr) : Prop := 1 ≤ (encode i).length ∧ (encode i).length ≤ 25

/-- The bounds of an encoding. -/
def Bounded (l : List Byte) : Prop := 1 ≤ l.length ∧ l.length ≤ 25

theorem bounded_one (c : Byte) (x : Operand) : Bounded (c :: x.encode) := by
  have := x.length_bounds
  simp only [Bounded, List.length_cons]
  omega

theorem bounded_two (c : Byte) (x y : Operand) : Bounded (c :: (x.encode ++ y.encode)) := by
  have := x.length_bounds
  have := y.length_bounds
  simp only [Bounded, List.length_cons, List.length_append]
  omega

theorem bounded_three (c : Byte) (x y z : Operand) : Bounded (c :: (x.encode ++ y.encode ++ z.encode)) := by
  have := x.length_bounds
  have := y.length_bounds
  have := z.length_bounds
  simp only [Bounded, List.length_cons, List.length_append]
  omega

theorem bounded_four (c : Byte) (x y z w : Operand) :
    Bounded (c :: (x.encode ++ y.encode ++ z.encode ++ w.encode)) := by
  have := x.length_bounds
  have := y.length_bounds
  have := z.length_bounds
  have := w.length_bounds
  simp only [Bounded, List.length_cons, List.length_append]
  omega

theorem bounded_word_one (c : Byte) (v : Word) (x : Operand) : Bounded (c :: (encodeWord v ++ x.encode)) := by
  have := x.length_bounds
  simp only [Bounded, List.length_cons, List.length_append, encodeWord_length]
  omega

theorem bounded_word_two (c : Byte) (v : Word) (x y : Operand) :
    Bounded (c :: (encodeWord v ++ x.encode ++ y.encode)) := by
  have := x.length_bounds
  have := y.length_bounds
  simp only [Bounded, List.length_cons, List.length_append, encodeWord_length]
  omega

theorem bounded_short {l : List Byte} (h : l.length = 1 ∨ l.length = 2 ∨ l.length = 3 ∨ l.length = 5) : Bounded l := by
  simp only [Bounded]
  omega

theorem EncodeLength.spoprd (word : Word) (src : Operand) : Statement (.spoprd word src) := bounded_word_one _ word src
theorem EncodeLength.spopd2 (word : Word) (src : Operand) (dst : Operand) : Statement (.spopd2 word src dst) := bounded_word_two _ word src dst
theorem EncodeLength.movaw (src : Operand) (dst : Operand) : Statement (.movaw src dst) := bounded_two _ src dst
theorem EncodeLength.spoprt (word : Word) (src : Operand) : Statement (.spoprt word src) := bounded_word_one _ word src
theorem EncodeLength.spopt2 (word : Word) (src : Operand) (dst : Operand) : Statement (.spopt2 word src dst) := bounded_word_two _ word src dst
theorem EncodeLength.ret : Statement .ret := bounded_short (.inl rfl)
theorem EncodeLength.movtrw (src : Operand) (dst : Operand) : Statement (.movtrw src dst) := bounded_two _ src dst
theorem EncodeLength.save (reg : Operand) : Statement (.save reg) := bounded_one _ reg
theorem EncodeLength.spopwd (word : Word) (dst : Operand) : Statement (.spopwd word dst) := bounded_word_one _ word dst
theorem EncodeLength.extop : Statement .extop := bounded_short (.inr (.inl rfl))
theorem EncodeLength.spopwt (word : Word) (dst : Operand) : Statement (.spopwt word dst) := bounded_word_one _ word dst
theorem EncodeLength.restore (reg : Operand) : Statement (.restore reg) := bounded_one _ reg
theorem EncodeLength.swapwi (dst : Operand) : Statement (.swapwi dst) := bounded_one _ dst
theorem EncodeLength.swaphi (dst : Operand) : Statement (.swaphi dst) := bounded_one _ dst
theorem EncodeLength.swapbi (dst : Operand) : Statement (.swapbi dst) := bounded_one _ dst
theorem EncodeLength.popw (dst : Operand) : Statement (.popw dst) := bounded_one _ dst
theorem EncodeLength.spoprs (word : Word) (src : Operand) : Statement (.spoprs word src) := bounded_word_one _ word src
theorem EncodeLength.spops2 (word : Word) (src : Operand) (dst : Operand) : Statement (.spops2 word src dst) := bounded_word_two _ word src dst
theorem EncodeLength.jmp (dst : Operand) : Statement (.jmp dst) := bounded_one _ dst
theorem EncodeLength.cflush : Statement .cflush := bounded_short (.inl rfl)
theorem EncodeLength.tstw (src : Operand) : Statement (.tstw src) := bounded_one _ src
theorem EncodeLength.tsth (src : Operand) : Statement (.tsth src) := bounded_one _ src
theorem EncodeLength.tstb (src : Operand) : Statement (.tstb src) := bounded_one _ src
theorem EncodeLength.call (src : Operand) (dst : Operand) : Statement (.call src dst) := bounded_two _ src dst
theorem EncodeLength.bpt : Statement .bpt := bounded_short (.inl rfl)
theorem EncodeLength.wait : Statement .wait := bounded_short (.inl rfl)
theorem EncodeLength.spop (word : Word) : Statement (.spop word) := bounded_short (.inr (.inr (.inr rfl)))
theorem EncodeLength.spopws (word : Word) (dst : Operand) : Statement (.spopws word dst) := bounded_word_one _ word dst
theorem EncodeLength.jsb (dst : Operand) : Statement (.jsb dst) := bounded_one _ dst
theorem EncodeLength.bsbh (disp : BitVec 16) : Statement (.bsbh disp) := bounded_short (.inr (.inr (.inl rfl)))
theorem EncodeLength.bsbb (disp : BitVec 8) : Statement (.bsbb disp) := bounded_short (.inr (.inl rfl))
theorem EncodeLength.bitw (src1 : Operand) (src2 : Operand) : Statement (.bitw src1 src2) := bounded_two _ src1 src2
theorem EncodeLength.bith (src1 : Operand) (src2 : Operand) : Statement (.bith src1 src2) := bounded_two _ src1 src2
theorem EncodeLength.bitb (src1 : Operand) (src2 : Operand) : Statement (.bitb src1 src2) := bounded_two _ src1 src2
theorem EncodeLength.cmpw (src1 : Operand) (src2 : Operand) : Statement (.cmpw src1 src2) := bounded_two _ src1 src2
theorem EncodeLength.cmph (src1 : Operand) (src2 : Operand) : Statement (.cmph src1 src2) := bounded_two _ src1 src2
theorem EncodeLength.cmpb (src1 : Operand) (src2 : Operand) : Statement (.cmpb src1 src2) := bounded_two _ src1 src2
theorem EncodeLength.rgeq : Statement .rgeq := bounded_short (.inl rfl)
theorem EncodeLength.bgeh (disp : BitVec 16) : Statement (.bgeh disp) := bounded_short (.inr (.inr (.inl rfl)))
theorem EncodeLength.bgeb (disp : BitVec 8) : Statement (.bgeb disp) := bounded_short (.inr (.inl rfl))
theorem EncodeLength.rgtr : Statement .rgtr := bounded_short (.inl rfl)
theorem EncodeLength.bgh (disp : BitVec 16) : Statement (.bgh disp) := bounded_short (.inr (.inr (.inl rfl)))
theorem EncodeLength.bgb (disp : BitVec 8) : Statement (.bgb disp) := bounded_short (.inr (.inl rfl))
theorem EncodeLength.rlss : Statement .rlss := bounded_short (.inl rfl)
theorem EncodeLength.blh (disp : BitVec 16) : Statement (.blh disp) := bounded_short (.inr (.inr (.inl rfl)))
theorem EncodeLength.blb (disp : BitVec 8) : Statement (.blb disp) := bounded_short (.inr (.inl rfl))
theorem EncodeLength.rleq : Statement .rleq := bounded_short (.inl rfl)
theorem EncodeLength.bleh (disp : BitVec 16) : Statement (.bleh disp) := bounded_short (.inr (.inr (.inl rfl)))
theorem EncodeLength.bleb (disp : BitVec 8) : Statement (.bleb disp) := bounded_short (.inr (.inl rfl))
theorem EncodeLength.rcc : Statement .rcc := bounded_short (.inl rfl)
theorem EncodeLength.rgequ : Statement .rgequ := bounded_short (.inl rfl)
theorem EncodeLength.bcch (disp : BitVec 16) : Statement (.bcch disp) := bounded_short (.inr (.inr (.inl rfl)))
theorem EncodeLength.bgeuh (disp : BitVec 16) : Statement (.bgeuh disp) := bounded_short (.inr (.inr (.inl rfl)))
theorem EncodeLength.bccb (disp : BitVec 8) : Statement (.bccb disp) := bounded_short (.inr (.inl rfl))
theorem EncodeLength.bgeub (disp : BitVec 8) : Statement (.bgeub disp) := bounded_short (.inr (.inl rfl))
theorem EncodeLength.rgtru : Statement .rgtru := bounded_short (.inl rfl)
theorem EncodeLength.bguh (disp : BitVec 16) : Statement (.bguh disp) := bounded_short (.inr (.inr (.inl rfl)))
theorem EncodeLength.bgub (disp : BitVec 8) : Statement (.bgub disp) := bounded_short (.inr (.inl rfl))
theorem EncodeLength.rcs : Statement .rcs := bounded_short (.inl rfl)
theorem EncodeLength.rlssu : Statement .rlssu := bounded_short (.inl rfl)
theorem EncodeLength.bcsh (disp : BitVec 16) : Statement (.bcsh disp) := bounded_short (.inr (.inr (.inl rfl)))
theorem EncodeLength.bluh (disp : BitVec 16) : Statement (.bluh disp) := bounded_short (.inr (.inr (.inl rfl)))
theorem EncodeLength.bcsb (disp : BitVec 8) : Statement (.bcsb disp) := bounded_short (.inr (.inl rfl))
theorem EncodeLength.blub (disp : BitVec 8) : Statement (.blub disp) := bounded_short (.inr (.inl rfl))
theorem EncodeLength.rlequ : Statement .rlequ := bounded_short (.inl rfl)
theorem EncodeLength.bleuh (disp : BitVec 16) : Statement (.bleuh disp) := bounded_short (.inr (.inr (.inl rfl)))
theorem EncodeLength.bleub (disp : BitVec 8) : Statement (.bleub disp) := bounded_short (.inr (.inl rfl))
theorem EncodeLength.rvc : Statement .rvc := bounded_short (.inl rfl)
theorem EncodeLength.bvch (disp : BitVec 16) : Statement (.bvch disp) := bounded_short (.inr (.inr (.inl rfl)))
theorem EncodeLength.bvcb (disp : BitVec 8) : Statement (.bvcb disp) := bounded_short (.inr (.inl rfl))
theorem EncodeLength.rnequ : Statement .rnequ := bounded_short (.inl rfl)
theorem EncodeLength.bneh66 (disp : BitVec 16) : Statement (.bneh66 disp) := bounded_short (.inr (.inr (.inl rfl)))
theorem EncodeLength.bneb67 (disp : BitVec 8) : Statement (.bneb67 disp) := bounded_short (.inr (.inl rfl))
theorem EncodeLength.rvs : Statement .rvs := bounded_short (.inl rfl)
theorem EncodeLength.bvsh (disp : BitVec 16) : Statement (.bvsh disp) := bounded_short (.inr (.inr (.inl rfl)))
theorem EncodeLength.bvsb (disp : BitVec 8) : Statement (.bvsb disp) := bounded_short (.inr (.inl rfl))
theorem EncodeLength.reqlu : Statement .reqlu := bounded_short (.inl rfl)
theorem EncodeLength.beh6e (disp : BitVec 16) : Statement (.beh6e disp) := bounded_short (.inr (.inr (.inl rfl)))
theorem EncodeLength.beb6f (disp : BitVec 8) : Statement (.beb6f disp) := bounded_short (.inr (.inl rfl))
theorem EncodeLength.nop : Statement .nop := bounded_short (.inl rfl)
theorem EncodeLength.nop3 : Statement .nop3 := bounded_short (.inr (.inr (.inl rfl)))
theorem EncodeLength.nop2 : Statement .nop2 := bounded_short (.inr (.inl rfl))
theorem EncodeLength.rneq : Statement .rneq := bounded_short (.inl rfl)
theorem EncodeLength.bneh (disp : BitVec 16) : Statement (.bneh disp) := bounded_short (.inr (.inr (.inl rfl)))
theorem EncodeLength.bneb (disp : BitVec 8) : Statement (.bneb disp) := bounded_short (.inr (.inl rfl))
theorem EncodeLength.rsb : Statement .rsb := bounded_short (.inl rfl)
theorem EncodeLength.brh (disp : BitVec 16) : Statement (.brh disp) := bounded_short (.inr (.inr (.inl rfl)))
theorem EncodeLength.brb (disp : BitVec 8) : Statement (.brb disp) := bounded_short (.inr (.inl rfl))
theorem EncodeLength.reql : Statement .reql := bounded_short (.inl rfl)
theorem EncodeLength.beh (disp : BitVec 16) : Statement (.beh disp) := bounded_short (.inr (.inr (.inl rfl)))
theorem EncodeLength.beb (disp : BitVec 8) : Statement (.beb disp) := bounded_short (.inr (.inl rfl))
theorem EncodeLength.clrw (dst : Operand) : Statement (.clrw dst) := bounded_one _ dst
theorem EncodeLength.clrh (dst : Operand) : Statement (.clrh dst) := bounded_one _ dst
theorem EncodeLength.clrb (dst : Operand) : Statement (.clrb dst) := bounded_one _ dst
theorem EncodeLength.movw (src : Operand) (dst : Operand) : Statement (.movw src dst) := bounded_two _ src dst
theorem EncodeLength.movh (src : Operand) (dst : Operand) : Statement (.movh src dst) := bounded_two _ src dst
theorem EncodeLength.movb (src : Operand) (dst : Operand) : Statement (.movb src dst) := bounded_two _ src dst
theorem EncodeLength.mcomw (src : Operand) (dst : Operand) : Statement (.mcomw src dst) := bounded_two _ src dst
theorem EncodeLength.mcomh (src : Operand) (dst : Operand) : Statement (.mcomh src dst) := bounded_two _ src dst
theorem EncodeLength.mcomb (src : Operand) (dst : Operand) : Statement (.mcomb src dst) := bounded_two _ src dst
theorem EncodeLength.mnegw (src : Operand) (dst : Operand) : Statement (.mnegw src dst) := bounded_two _ src dst
theorem EncodeLength.mnegh (src : Operand) (dst : Operand) : Statement (.mnegh src dst) := bounded_two _ src dst
theorem EncodeLength.mnegb (src : Operand) (dst : Operand) : Statement (.mnegb src dst) := bounded_two _ src dst
theorem EncodeLength.incw (dst : Operand) : Statement (.incw dst) := bounded_one _ dst
theorem EncodeLength.inch (dst : Operand) : Statement (.inch dst) := bounded_one _ dst
theorem EncodeLength.incb (dst : Operand) : Statement (.incb dst) := bounded_one _ dst
theorem EncodeLength.decw (dst : Operand) : Statement (.decw dst) := bounded_one _ dst
theorem EncodeLength.dech (dst : Operand) : Statement (.dech dst) := bounded_one _ dst
theorem EncodeLength.decb (dst : Operand) : Statement (.decb dst) := bounded_one _ dst
theorem EncodeLength.addw2 (src : Operand) (dst : Operand) : Statement (.addw2 src dst) := bounded_two _ src dst
theorem EncodeLength.addh2 (src : Operand) (dst : Operand) : Statement (.addh2 src dst) := bounded_two _ src dst
theorem EncodeLength.addb2 (src : Operand) (dst : Operand) : Statement (.addb2 src dst) := bounded_two _ src dst
theorem EncodeLength.pushw (src : Operand) : Statement (.pushw src) := bounded_one _ src
theorem EncodeLength.modw2 (src : Operand) (dst : Operand) : Statement (.modw2 src dst) := bounded_two _ src dst
theorem EncodeLength.modh2 (src : Operand) (dst : Operand) : Statement (.modh2 src dst) := bounded_two _ src dst
theorem EncodeLength.modb2 (src : Operand) (dst : Operand) : Statement (.modb2 src dst) := bounded_two _ src dst
theorem EncodeLength.mulw2 (src : Operand) (dst : Operand) : Statement (.mulw2 src dst) := bounded_two _ src dst
theorem EncodeLength.mulh2 (src : Operand) (dst : Operand) : Statement (.mulh2 src dst) := bounded_two _ src dst
theorem EncodeLength.mulb2 (src : Operand) (dst : Operand) : Statement (.mulb2 src dst) := bounded_two _ src dst
theorem EncodeLength.divw2 (src : Operand) (dst : Operand) : Statement (.divw2 src dst) := bounded_two _ src dst
theorem EncodeLength.divh2 (src : Operand) (dst : Operand) : Statement (.divh2 src dst) := bounded_two _ src dst
theorem EncodeLength.divb2 (src : Operand) (dst : Operand) : Statement (.divb2 src dst) := bounded_two _ src dst
theorem EncodeLength.orw2 (src : Operand) (dst : Operand) : Statement (.orw2 src dst) := bounded_two _ src dst
theorem EncodeLength.orh2 (src : Operand) (dst : Operand) : Statement (.orh2 src dst) := bounded_two _ src dst
theorem EncodeLength.orb2 (src : Operand) (dst : Operand) : Statement (.orb2 src dst) := bounded_two _ src dst
theorem EncodeLength.xorw2 (src : Operand) (dst : Operand) : Statement (.xorw2 src dst) := bounded_two _ src dst
theorem EncodeLength.xorh2 (src : Operand) (dst : Operand) : Statement (.xorh2 src dst) := bounded_two _ src dst
theorem EncodeLength.xorb2 (src : Operand) (dst : Operand) : Statement (.xorb2 src dst) := bounded_two _ src dst
theorem EncodeLength.andw2 (src : Operand) (dst : Operand) : Statement (.andw2 src dst) := bounded_two _ src dst
theorem EncodeLength.andh2 (src : Operand) (dst : Operand) : Statement (.andh2 src dst) := bounded_two _ src dst
theorem EncodeLength.andb2 (src : Operand) (dst : Operand) : Statement (.andb2 src dst) := bounded_two _ src dst
theorem EncodeLength.subw2 (src : Operand) (dst : Operand) : Statement (.subw2 src dst) := bounded_two _ src dst
theorem EncodeLength.subh2 (src : Operand) (dst : Operand) : Statement (.subh2 src dst) := bounded_two _ src dst
theorem EncodeLength.subb2 (src : Operand) (dst : Operand) : Statement (.subb2 src dst) := bounded_two _ src dst
theorem EncodeLength.alsw3 (count : Operand) (src : Operand) (dst : Operand) : Statement (.alsw3 count src dst) := bounded_three _ count src dst
theorem EncodeLength.arsw3 (count : Operand) (src : Operand) (dst : Operand) : Statement (.arsw3 count src dst) := bounded_three _ count src dst
theorem EncodeLength.arsh3 (count : Operand) (src : Operand) (dst : Operand) : Statement (.arsh3 count src dst) := bounded_three _ count src dst
theorem EncodeLength.arsb3 (count : Operand) (src : Operand) (dst : Operand) : Statement (.arsb3 count src dst) := bounded_three _ count src dst
theorem EncodeLength.insfw (width : Operand) (offset : Operand) (src : Operand) (dst : Operand) : Statement (.insfw width offset src dst) := bounded_four _ width offset src dst
theorem EncodeLength.insfh (width : Operand) (offset : Operand) (src : Operand) (dst : Operand) : Statement (.insfh width offset src dst) := bounded_four _ width offset src dst
theorem EncodeLength.insfb (width : Operand) (offset : Operand) (src : Operand) (dst : Operand) : Statement (.insfb width offset src dst) := bounded_four _ width offset src dst
theorem EncodeLength.extfw (width : Operand) (offset : Operand) (src : Operand) (dst : Operand) : Statement (.extfw width offset src dst) := bounded_four _ width offset src dst
theorem EncodeLength.extfh (width : Operand) (offset : Operand) (src : Operand) (dst : Operand) : Statement (.extfh width offset src dst) := bounded_four _ width offset src dst
theorem EncodeLength.extfb (width : Operand) (offset : Operand) (src : Operand) (dst : Operand) : Statement (.extfb width offset src dst) := bounded_four _ width offset src dst
theorem EncodeLength.llsw3 (count : Operand) (src : Operand) (dst : Operand) : Statement (.llsw3 count src dst) := bounded_three _ count src dst
theorem EncodeLength.llsh3 (count : Operand) (src : Operand) (dst : Operand) : Statement (.llsh3 count src dst) := bounded_three _ count src dst
theorem EncodeLength.llsb3 (count : Operand) (src : Operand) (dst : Operand) : Statement (.llsb3 count src dst) := bounded_three _ count src dst
theorem EncodeLength.lrsw3 (count : Operand) (src : Operand) (dst : Operand) : Statement (.lrsw3 count src dst) := bounded_three _ count src dst
theorem EncodeLength.rotw (count : Operand) (src : Operand) (dst : Operand) : Statement (.rotw count src dst) := bounded_three _ count src dst
theorem EncodeLength.addw3 (src1 : Operand) (src2 : Operand) (dst : Operand) : Statement (.addw3 src1 src2 dst) := bounded_three _ src1 src2 dst
theorem EncodeLength.addh3 (src1 : Operand) (src2 : Operand) (dst : Operand) : Statement (.addh3 src1 src2 dst) := bounded_three _ src1 src2 dst
theorem EncodeLength.addb3 (src1 : Operand) (src2 : Operand) (dst : Operand) : Statement (.addb3 src1 src2 dst) := bounded_three _ src1 src2 dst
theorem EncodeLength.pushaw (src : Operand) : Statement (.pushaw src) := bounded_one _ src
theorem EncodeLength.modw3 (src1 : Operand) (src2 : Operand) (dst : Operand) : Statement (.modw3 src1 src2 dst) := bounded_three _ src1 src2 dst
theorem EncodeLength.modh3 (src1 : Operand) (src2 : Operand) (dst : Operand) : Statement (.modh3 src1 src2 dst) := bounded_three _ src1 src2 dst
theorem EncodeLength.modb3 (src1 : Operand) (src2 : Operand) (dst : Operand) : Statement (.modb3 src1 src2 dst) := bounded_three _ src1 src2 dst
theorem EncodeLength.mulw3 (src1 : Operand) (src2 : Operand) (dst : Operand) : Statement (.mulw3 src1 src2 dst) := bounded_three _ src1 src2 dst
theorem EncodeLength.mulh3 (src1 : Operand) (src2 : Operand) (dst : Operand) : Statement (.mulh3 src1 src2 dst) := bounded_three _ src1 src2 dst
theorem EncodeLength.mulb3 (src1 : Operand) (src2 : Operand) (dst : Operand) : Statement (.mulb3 src1 src2 dst) := bounded_three _ src1 src2 dst
theorem EncodeLength.divw3 (src1 : Operand) (src2 : Operand) (dst : Operand) : Statement (.divw3 src1 src2 dst) := bounded_three _ src1 src2 dst
theorem EncodeLength.divh3 (src1 : Operand) (src2 : Operand) (dst : Operand) : Statement (.divh3 src1 src2 dst) := bounded_three _ src1 src2 dst
theorem EncodeLength.divb3 (src1 : Operand) (src2 : Operand) (dst : Operand) : Statement (.divb3 src1 src2 dst) := bounded_three _ src1 src2 dst
theorem EncodeLength.orw3 (src1 : Operand) (src2 : Operand) (dst : Operand) : Statement (.orw3 src1 src2 dst) := bounded_three _ src1 src2 dst
theorem EncodeLength.orh3 (src1 : Operand) (src2 : Operand) (dst : Operand) : Statement (.orh3 src1 src2 dst) := bounded_three _ src1 src2 dst
theorem EncodeLength.orb3 (src1 : Operand) (src2 : Operand) (dst : Operand) : Statement (.orb3 src1 src2 dst) := bounded_three _ src1 src2 dst
theorem EncodeLength.xorw3 (src1 : Operand) (src2 : Operand) (dst : Operand) : Statement (.xorw3 src1 src2 dst) := bounded_three _ src1 src2 dst
theorem EncodeLength.xorh3 (src1 : Operand) (src2 : Operand) (dst : Operand) : Statement (.xorh3 src1 src2 dst) := bounded_three _ src1 src2 dst
theorem EncodeLength.xorb3 (src1 : Operand) (src2 : Operand) (dst : Operand) : Statement (.xorb3 src1 src2 dst) := bounded_three _ src1 src2 dst
theorem EncodeLength.andw3 (src1 : Operand) (src2 : Operand) (dst : Operand) : Statement (.andw3 src1 src2 dst) := bounded_three _ src1 src2 dst
theorem EncodeLength.andh3 (src1 : Operand) (src2 : Operand) (dst : Operand) : Statement (.andh3 src1 src2 dst) := bounded_three _ src1 src2 dst
theorem EncodeLength.andb3 (src1 : Operand) (src2 : Operand) (dst : Operand) : Statement (.andb3 src1 src2 dst) := bounded_three _ src1 src2 dst
theorem EncodeLength.subw3 (src1 : Operand) (src2 : Operand) (dst : Operand) : Statement (.subw3 src1 src2 dst) := bounded_three _ src1 src2 dst
theorem EncodeLength.subh3 (src1 : Operand) (src2 : Operand) (dst : Operand) : Statement (.subh3 src1 src2 dst) := bounded_three _ src1 src2 dst
theorem EncodeLength.subb3 (src1 : Operand) (src2 : Operand) (dst : Operand) : Statement (.subb3 src1 src2 dst) := bounded_three _ src1 src2 dst
theorem EncodeLength.mverno : Statement .mverno := bounded_short (.inr (.inl rfl))
theorem EncodeLength.enbvjmp : Statement .enbvjmp := bounded_short (.inr (.inl rfl))
theorem EncodeLength.disvjmp : Statement .disvjmp := bounded_short (.inr (.inl rfl))
theorem EncodeLength.movblw : Statement .movblw := bounded_short (.inr (.inl rfl))
theorem EncodeLength.strend : Statement .strend := bounded_short (.inr (.inl rfl))
theorem EncodeLength.intack : Statement .intack := bounded_short (.inr (.inl rfl))
theorem EncodeLength.strcpy : Statement .strcpy := bounded_short (.inr (.inl rfl))
theorem EncodeLength.retg : Statement .retg := bounded_short (.inr (.inl rfl))
theorem EncodeLength.gate : Statement .gate := bounded_short (.inr (.inl rfl))
theorem EncodeLength.callps : Statement .callps := bounded_short (.inr (.inl rfl))
theorem EncodeLength.retps : Statement .retps := bounded_short (.inr (.inl rfl))

end Sys2Proof.Laws
end

