-- ==== Sys2Proof/Laws/Prefix.lean ====
section
/-! SUPPORT. Decoding the first bytes of an instruction: it asks for more bytes, or it answers as on the whole
(30_encoding R123). -/

namespace Sys2Proof

/-- What a parser makes of the first bytes is what it makes of more, but for a plea for more bytes, and but for an error
where the whole is something that is not good. -/
def Steady {α : Type} (good : α → Prop) (f : Stream → Parse α) : Prop :=
  (∀ p r x t, f p = .ok (x, t) → f (p ++ r) = .ok (x, t ++ r)) ∧
    ∀ p r e, f p = .error e → e ≠ .fetchFault →
      f (p ++ r) = .error e ∨ ∃ x t, f (p ++ r) = .ok (x, t) ∧ ¬good x

/-- Steady without exception. -/
abbrev Firm {α : Type} (f : Stream → Parse α) : Prop := Steady (fun _ => True) f

theorem Firm.error {α : Type} {f : Stream → Parse α} (h : Firm f) {p : Stream} {e : DecodeError} (hp : f p = .error e)
    (he : e ≠ .fetchFault) (r : Stream) : f (p ++ r) = .error e := by
  rcases h.2 p r e hp he with h | ⟨_, _, _, h⟩
  · exact h
  · exact absurd trivial h

theorem steady_pure {α : Type} {good : α → Prop} (x : α) : Steady good fun s => .ok (x, s) :=
  ⟨fun _ _ _ _ h => (by cases h; rfl), fun _ _ _ h => (nomatch h)⟩

theorem steady_error {α : Type} {good : α → Prop} (e : DecodeError) : Steady good (fun _ => .error e : Stream → Parse α) :=
  ⟨fun _ _ _ _ h => (nomatch h), fun _ _ _ h _ => .inl h⟩

theorem Firm.andThen {α β : Type} {good : β → Prop} {f : Stream → Parse α} {g : α → Stream → Parse β} (h : Firm f)
    (k : ∀ x, Steady good (g x)) : Steady good fun s => (f s).andThen g := by
  refine ⟨fun p r y t e => ?_, fun p r e he hn => ?_⟩
  · cases hp : f p with
    | error x => simp only [hp, Parse.andThen] at e; cases e
    | ok a =>
      simp only [hp, Parse.andThen] at e
      simp only [h.1 p r _ _ hp, Parse.andThen]
      exact (k a.1).1 _ _ _ _ e
  · cases hp : f p with
    | error x =>
      simp only [hp, Parse.andThen] at he
      cases he
      simp only [h.error hp hn r, Parse.andThen]
      exact .inl trivial
    | ok a =>
      simp only [hp, Parse.andThen] at he
      simp only [h.1 p r _ _ hp, Parse.andThen]
      exact (k a.1).2 _ _ _ he hn

theorem firm_takeByte : Firm takeByte := by
  refine ⟨fun p r y t e => ?_, fun p r e he hn => ?_⟩ <;> match p with
  | [] => simp_all [takeByte]
  | none :: _ => simp_all [takeByte]
  | some _ :: _ => simp_all [takeByte]

theorem firm_takeHalf : Firm takeHalf := firm_takeByte.andThen fun _ => firm_takeByte.andThen fun _ => steady_pure _

theorem firm_takeWord : Firm takeWord := firm_takeHalf.andThen fun _ => firm_takeHalf.andThen fun _ => steady_pure _

theorem Firm.mode {α : Type} {f : Stream → Parse α} (h : Firm f) (g : α → Mode) : Firm fun s => (f s).mode g :=
  h.andThen fun _ => steady_pure _

theorem firm_parseMode (d : Byte) : Firm (parseMode d) := by
  unfold parseMode
  dsimp only
  split <;> (try split) <;> (try split) <;>
    first
    | exact steady_pure _
    | exact steady_error _
    | exact firm_takeWord.mode _
    | exact firm_takeHalf.mode _
    | exact firm_takeByte.mode _

theorem firm_parseOperand : Firm parseOperand := by
  refine firm_takeByte.andThen fun d => ?_
  split
  · split
    · exact steady_error _
    · exact firm_takeByte.andThen fun d => (firm_parseMode d).andThen fun _ => steady_pure _
  · exact (firm_parseMode d).andThen fun _ => steady_pure _

/-- An operand the instruction does not allow may be reported before what follows it (30_encoding R152). -/
theorem steady_withOperand {α : Type} {good : α → Prop} {role : Role} {k : Operand → Stream → Parse α}
    (h : ∀ o, Steady good (k o)) (bad : ∀ o s x t, role.accepts o = false → k o s = .ok (x, t) → ¬good x) :
    Steady good fun s => withOperand role s k := by
  refine firm_parseOperand.andThen fun o => ⟨fun p r x t e => ?_, fun p r e he hn => ?_⟩
  · cases hp : k o p with
    | ok a =>
      simp only [hp, guardLater] at e
      cases e
      simp only [(h o).1 p r _ _ hp, guardLater]
    | error x =>
      simp only [hp, guardLater] at e
      split at e <;> cases e
  · cases hp : k o p with
    | ok a => simp only [hp, guardLater] at he; cases he
    | error x =>
      simp only [hp, guardLater] at he
      split at he <;> rename_i ha <;> cases he
      · rcases (h o).2 p r _ hp hn with g | ⟨y, t, g, n⟩
        · exact .inl (by simp only [g, guardLater, if_pos ha])
        · exact .inr ⟨y, t, by simp only [g, guardLater], n⟩
      · cases g : k o (p ++ r) with
        | ok a => exact .inr ⟨a.1, a.2, by simp only [g, guardLater], bad o _ _ _ (by simpa using ha) g⟩
        | error e' => exact .inl (by simp only [g, guardLater, if_neg ha])

/-! ## The opcode tables -/

/-- Every operand is one the processor accepts. -/
def Instr.accepted (i : Instr) : Prop := ∀ p ∈ i.operands, p.1.accepts p.2 = true

theorem Instr.accepted_of_wellFormed {i : Instr} (h : i.wellFormed = true) : i.accepted :=
  fun p hp => accepts_of_wellFormed (List.all_eq_true.mp h p hp)

/-- The roles an entry parses its operands in are those of its instruction's operands. -/
def Entry.agrees : Entry → Prop
  | .op1 a mk => ∀ x, (mk x).operands = [(a, x)]
  | .op2 a b mk => ∀ x y, (mk x y).operands = [(a, x), (b, y)]
  | .op3 a b c mk => ∀ x y z, (mk x y z).operands = [(a, x), (b, y), (c, z)]
  | .op4 a b c d mk => ∀ x y z w, (mk x y z w).operands = [(a, x), (b, y), (c, z), (d, w)]
  | .cp1 a mk => ∀ v x, (mk v x).operands = [(a, x)]
  | .cp2 a b mk => ∀ v x y, (mk v x y).operands = [(a, x), (b, y)]
  | _ => True

theorem lookup_mem {n : Nat} {l : List (Nat × Entry)} {e : Entry} (h : lookup n l = some e) : ∃ k, (k, e) ∈ l := by
  induction l with
  | nil => cases h
  | cons x rest ih =>
    simp only [lookup] at h
    split at h
    · cases h; exact ⟨x.1, List.mem_cons_self ..⟩
    · obtain ⟨k, hk⟩ := ih h; exact ⟨k, List.mem_cons_of_mem _ hk⟩

theorem agrees_nil : ∀ p ∈ ([] : List (Nat × Entry)), p.2.agrees := fun _ h => absurd h (List.not_mem_nil)

theorem agrees_cons {k : Nat} {e : Entry} {l : List (Nat × Entry)} (h : e.agrees) (g : ∀ p ∈ l, p.2.agrees) :
    ∀ p ∈ (k, e) :: l, p.2.agrees := List.forall_mem_cons.mpr ⟨h, g⟩

theorem agrees_opcodes0 : ∀ p ∈ opcodes0, p.2.agrees := by
  unfold opcodes0
  repeat'
    first
    | exact agrees_nil
    | refine agrees_cons ?_ ?_
    | exact trivial
    | exact fun _ => rfl
    | exact fun _ _ => rfl
    | exact fun _ _ _ => rfl

theorem agrees_opcodes1 : ∀ p ∈ opcodes1, p.2.agrees := by
  unfold opcodes1
  repeat'
    first
    | exact agrees_nil
    | refine agrees_cons ?_ ?_
    | exact trivial

theorem agrees_opcodes2 : ∀ p ∈ opcodes2, p.2.agrees := by
  unfold opcodes2
  repeat'
    first
    | exact agrees_nil
    | refine agrees_cons ?_ ?_
    | exact fun _ => rfl
    | exact fun _ _ => rfl

theorem agrees_opcodes3 : ∀ p ∈ opcodes3, p.2.agrees := by
  unfold opcodes3
  repeat'
    first
    | exact agrees_nil
    | refine agrees_cons ?_ ?_
    | exact fun _ => rfl
    | exact fun _ _ _ => rfl
    | exact fun _ _ _ _ => rfl

theorem agrees_opcodesPrefixed : ∀ p ∈ opcodesPrefixed, p.2.agrees := by
  unfold opcodesPrefixed
  repeat'
    first
    | exact agrees_nil
    | refine agrees_cons ?_ ?_
    | exact trivial

theorem agrees_entryOne {b : Byte} {e : Entry} (h : entryOne b = some e) : e.agrees := by
  simp only [entryOne] at h
  split at h <;> obtain ⟨k, hk⟩ := lookup_mem h
  · exact agrees_opcodes0 _ hk
  · exact agrees_opcodes1 _ hk
  · exact agrees_opcodes2 _ hk
  · exact agrees_opcodes3 _ hk

theorem agrees_entryTwo {b : Byte} {e : Entry} (h : entryTwo b = some e) : e.agrees := by
  obtain ⟨k, hk⟩ := lookup_mem h
  exact agrees_opcodesPrefixed _ hk

/-- An operand that is not accepted makes an instruction that is not. -/
theorem not_accepted {i : Instr} {role : Role} {o : Operand} (h : (role, o) ∈ i.operands) (ha : role.accepts o = false) :
    ¬i.accepted := fun g => by simpa [ha] using g _ h

/-- What a parser of an operand and the rest answers is what the rest answers for some operand. -/
theorem withOperand_ok {α : Type} {role : Role} {k : Operand → Stream → Parse α} {s t : Stream} {x : α}
    (h : withOperand role s k = .ok (x, t)) : ∃ o s', k o s' = .ok (x, t) := by
  cases hp : parseOperand s with
  | error e => simp only [withOperand, hp, Parse.andThen] at h; cases h
  | ok a =>
    simp only [withOperand, hp, Parse.andThen, guardLater] at h
    split at h
    · rename_i g; cases h; exact ⟨_, _, g⟩
    · split at h <;> cases h

/-- The operands of an instruction, one by one: where one is not accepted the instruction is not. -/
theorem steady_parseEntry {e : Entry} (h : e.agrees) : Steady Instr.accepted (parseEntry e) := by
  cases e with
  | op0 i => exact steady_pure _
  | op1 a mk =>
    refine steady_withOperand (fun _ => steady_pure _) fun o s x t ha g => ?_
    cases g
    exact not_accepted (h o ▸ by simp) ha
  | op2 a b mk =>
    refine steady_withOperand (fun o => steady_withOperand (fun _ => steady_pure _) fun o' s x t ha g => ?_)
      fun o s x t ha g => ?_
    · cases g
      exact not_accepted (h o o' ▸ by simp) ha
    · obtain ⟨o', _, g⟩ := withOperand_ok g
      cases g
      exact not_accepted (h o o' ▸ by simp) ha
  | op3 a b c mk =>
    refine steady_withOperand (fun o => steady_withOperand (fun o' => steady_withOperand (fun _ => steady_pure _)
      fun o2 s x t ha g => ?_) fun o' s x t ha g => ?_) fun o s x t ha g => ?_
    · cases g
      exact not_accepted (h o o' o2 ▸ by simp) ha
    · obtain ⟨o2, _, g⟩ := withOperand_ok g
      cases g
      exact not_accepted (h o o' o2 ▸ by simp) ha
    · obtain ⟨o', _, g⟩ := withOperand_ok g
      obtain ⟨o2, _, g⟩ := withOperand_ok g
      cases g
      exact not_accepted (h o o' o2 ▸ by simp) ha
  | op4 a b c d mk =>
    refine steady_withOperand (fun o => steady_withOperand (fun o' => steady_withOperand (fun o2 => steady_withOperand
      (fun _ => steady_pure _) fun o3 s x t ha g => ?_) fun o2 s x t ha g => ?_) fun o' s x t ha g => ?_)
      fun o s x t ha g => ?_
    · cases g
      exact not_accepted (h o o' o2 o3 ▸ by simp) ha
    · obtain ⟨o3, _, g⟩ := withOperand_ok g
      cases g
      exact not_accepted (h o o' o2 o3 ▸ by simp) ha
    · obtain ⟨o2, _, g⟩ := withOperand_ok g
      obtain ⟨o3, _, g⟩ := withOperand_ok g
      cases g
      exact not_accepted (h o o' o2 o3 ▸ by simp) ha
    · obtain ⟨o', _, g⟩ := withOperand_ok g
      obtain ⟨o2, _, g⟩ := withOperand_ok g
      obtain ⟨o3, _, g⟩ := withOperand_ok g
      cases g
      exact not_accepted (h o o' o2 o3 ▸ by simp) ha
  | br8 mk => exact firm_takeByte.andThen fun _ => steady_pure _
  | br16 mk => exact firm_takeHalf.andThen fun _ => steady_pure _
  | cp0 mk => exact firm_takeWord.andThen fun _ => steady_pure _
  | cp1 a mk =>
    refine firm_takeWord.andThen fun v => steady_withOperand (fun _ => steady_pure _) fun o s x t ha g => ?_
    cases g
    exact not_accepted (h v o ▸ by simp) ha
  | cp2 a b mk =>
    refine firm_takeWord.andThen fun v => steady_withOperand (fun o => steady_withOperand (fun _ => steady_pure _)
      fun o' s x t ha g => ?_) fun o s x t ha g => ?_
    · cases g
      exact not_accepted (h v o o' ▸ by simp) ha
    · obtain ⟨o', _, g⟩ := withOperand_ok g
      cases g
      exact not_accepted (h v o o' ▸ by simp) ha

theorem steady_decode : Steady Instr.accepted decode := by
  have found : ∀ e : Option Entry, (∀ x, e = some x → x.agrees) → Steady Instr.accepted (parseFound e) := by
    intro e h
    cases e with
    | none => exact steady_error _
    | some e => exact steady_parseEntry (h e rfl)
  refine firm_takeByte.andThen fun b => ?_
  split
  · exact firm_takeByte.andThen fun b => found _ fun _ h => agrees_entryTwo h
  · exact found _ fun _ h => agrees_entryOne h

/-- Of the first bytes of a well-formed instruction the decoder reads that instruction, or it needs more bytes. -/
theorem decode_prefix {p r tail : Stream} {i : Instr} (hw : i.wellFormed = true) (h : decode (p ++ r) = .ok (i, tail)) :
    decode p = .error .fetchFault ∨ ∃ t, decode p = .ok (i, t) := by
  cases hp : decode p with
  | ok a =>
    have := steady_decode.1 p r _ _ hp
    rw [this] at h
    cases h
    exact .inr ⟨_, rfl⟩
  | error e =>
    by_cases he : e = .fetchFault
    · exact .inl (congrArg _ he)
    · rcases steady_decode.2 p r e hp he with g | ⟨x, t, g, n⟩
      · rw [g] at h; cases h
      · rw [g] at h; cases h
        exact absurd (Instr.accepted_of_wellFormed hw) n

end Sys2Proof
end

