-- ==== Sys2Proof/Laws/Reach.lean ====
section
/-! SUPPORT. Refused accesses: which states refuse the same ones, and what the pieces of the microsequences raise there
(46_operating_system R482). -/

namespace Sys2Proof.Machine

/-! ## States in which the same accesses succeed -/

/-- w refuses what s refuses, and nothing happens on its bus. -/
structure Alike (s w : State) : Prop where
  bus : w.bus = []
  level : accessLevel w = accessLevel s
  virtualMode : w.virtualMode = s.virtualMode
  inputs : w.inputs = s.inputs

theorem Alike.refl {s : State} (h : s.bus = []) : Alike s s := ⟨h, rfl, rfl, rfl⟩

theorem Alike.trans {s t w : State} (h : Alike s t) (g : Alike t w) : Alike s w :=
  ⟨g.bus, g.level.trans h.level, g.virtualMode.trans h.virtualMode, g.inputs.trans h.inputs⟩

/-- While kernel level is forced no register matters. -/
theorem Alike.forced {s w : State} (hb : w.bus = s.bus) (h : s.bus = []) (hs : s.kernelForced = true)
    (hw : w.kernelForced = true) (hv : w.virtualMode = s.virtualMode) (hi : w.inputs = s.inputs) : Alike s w :=
  ⟨hb.trans h, by simp [accessLevel, hs, hw], hv, hi⟩

theorem Alike.access {s w : State} (h : Alike s w) (st : Status) (size : BusSize) (kind : Kind) (a v : Word) :
    access w st size kind a v = access s st size kind a v := by
  simp only [Machine.access, reply, Reply.applies, translate, translating, h.level, h.virtualMode, h.inputs]
  rfl

theorem Alike.readReach {s w : State} (h : Alike s w) (st : Status) (size : Size) (a : Word) :
    readReach w st size a = readReach s st size a := by simp only [Machine.readReach, h.access]

theorem Alike.writeReach {s w : State} (h : Alike s w) (st : Status) (size : Size) (a v : Word) :
    writeReach w st size a v = writeReach s st size a v := by simp only [Machine.writeReach, h.access]

theorem unreadable_iff {s : State} {a : Word} : Unreadable s a ↔ readReach s .operandFetch .word a = none := by
  simp [Unreadable, memRead]

theorem Alike.unreadable {s w : State} (h : Alike s w) (a : Word) : Unreadable w a ↔ Unreadable s a := by
  rw [unreadable_iff, unreadable_iff, h.readReach]

theorem Alike.unwritable {s w : State} (h : Alike s w) (a : Word) : Unwritable w a ↔ Unwritable s a := by
  simp only [Unwritable, h.writeReach]

theorem Alike.writable {s w : State} (h : Alike s w) (a : Word) : Writable w a ↔ Writable s a := by
  simp only [Writable, h.writeReach]

/-! ## One access -/

/-- A read of a word, as a state like it refuses or grants it. -/
theorem Alike.load {s w : State} (h : Alike s w) (e : Exn) (a : Word) :
    (Unreadable s a ∧ Machine.load e a w = .error (e, w)) ∨
      ¬Unreadable s a ∧ ∃ p, Machine.readReach s .operandFetch .word a = Option.some p ∧
        Machine.load e a w = .ok (received w.mem .word p, w) := by
  by_cases hu : Unreadable s a
  · exact .inl ⟨hu, loadAs_fails h.bus ((h.unreadable a).mpr hu) e⟩
  · obtain ⟨p, hp⟩ := Option.ne_none_iff_exists'.mp fun g => hu (unreadable_iff.mpr g)
    exact .inr ⟨hu, p, hp, loadAs_quiet h.bus (by simp only [memRead, h.readReach, hp, Option.map_some]) e⟩

/-- A write of a word, as a state like it refuses or grants it. -/
theorem Alike.store {s w : State} (h : Alike s w) (e : Exn) (a v : Word) :
    (Machine.writeReach s .write .word a v = none ∧ Machine.store e a v w = .error (e, w)) ∨
      ∃ q, Machine.writeReach s .write .word a v = Option.some q ∧
        Machine.store e a v w = .ok { w with mem := deposited w.mem .word q v } := by
  cases hq : Machine.writeReach s .write .word a v with
  | none => exact .inl ⟨rfl, storeAs_fails h.bus ((h.writeReach _ _ _ _).trans hq) e⟩
  | some q => exact .inr ⟨q, rfl, storeAs_quiet h.bus ((h.writeReach _ _ _ _).trans hq) e⟩

theorem Writable.not_unwritable {s : State} {a : Word} (h : Writable s a) : ¬Unwritable s a := by
  intro g
  have := h 0
  rw [g 0] at this
  cases this

theorem not_unwritable_of {s : State} {a v : Word} {q : Reached} (h : writeReach s .write .word a v = some q) :
    ¬Unwritable s a := by
  intro g
  rw [g v] at h
  cases h

theorem not_writable_of {s : State} {a v : Word} (h : writeReach s .write .word a v = none) : ¬Writable s a := by
  intro g
  have := g v
  rw [h] at this
  cases this

/-- Another register than the PSW does not matter. -/
theorem Alike.setReg {s w : State} (h : Alike s w) {r : Reg} (hr : r ≠ .psw) (v : Word) : Alike s (setReg r v w) := by
  refine ⟨h.bus, ?_, h.virtualMode, h.inputs⟩
  rw [← h.level]
  cases r <;> first | rfl | exact absurd rfl hr

theorem Alike.setPsw {s w : State} (h : Alike s w) (hk : w.kernelForced = true) (v : Word) : Alike s (setPsw v w) :=
  ⟨h.bus, by rw [← h.level]; show accessLevel (Machine.setReg .psw v w) = _; simp [accessLevel, hk, Machine.setReg],
    h.virtualMode, h.inputs⟩

/-! ## Rows of words -/

/-- The word at place k of the row from a + 4 is that at k + 1 of the row from a. -/
theorem row_succ (a : Word) (k : Nat) : a + 4 + BitVec.ofNat 32 (4 * k) = a + BitVec.ofNat 32 (4 * (k + 1)) := by
  rw [BitVec.add_assoc, show (4 : Word) = BitVec.ofNat 32 4 from rfl, ← BitVec.ofNat_add, Nat.mul_add, Nat.add_comm]

/-- What a write reaches does not depend on memory. -/
theorem writeReach_mem (s : State) (m : Memory) (st : Status) (size : Size) (a v : Word) :
    writeReach { s with mem := m } st size a v = writeReach s st size a v := rfl

theorem landed_cons (m : Memory) (v : Word) (vs : List Word) (q : Reached) (qs : List Reached) :
    landed m (v :: vs) (q :: qs) = landed (deposited m .word q v) vs qs := rfl

/-- A byte none of the places covers reads as before. -/
theorem peek_landed {m : Memory} (hw : m.wf = true) (vs : List Word) {qs : List Reached} {x : Word}
    (h : ∀ a, .memory a ∈ qs → ¬covers .word a x) : peek (landed m vs qs) x = peek m x := by
  induction vs generalizing m qs with
  | nil => rfl
  | cons v vs ih =>
    cases qs with
    | nil => rfl
    | cons q qs =>
      rw [landed_cons, ih (wf_deposited hw _ _ _) fun a ha => h a (List.mem_cons_of_mem _ ha)]
      cases q with
      | device d => rfl
      | memory a => exact peek_writeData_other hw (h a (List.mem_cons_self)) _

/-- Words that reached consecutive places read back. -/
theorem readData_landed {a : Word} {vs : List Word} {qs : List Reached} {m : Memory} (hw : m.wf = true)
    (hl : qs.length ≤ vs.length) (hn : qs.length ≤ 10)
    (hq : ∀ j, j < qs.length → qs[j]? = some (.memory (a + BitVec.ofNat 32 (4 * j)))) :
    ∀ j, j < qs.length → readData (landed m vs qs) .word (a + BitVec.ofNat 32 (4 * j)) = vs.getD j 0 := by
  induction vs generalizing a qs m with
  | nil => intro j hj; simp at hl; rw [hl] at hj; simp at hj
  | cons v rest ih =>
    cases qs with
    | nil => simp
    | cons q qs =>
      have h0 := hq 0 (by simp)
      simp at h0 hn
      subst h0
      have hw' := wf_writeData hw .word a v
      have hq' : ∀ j, j < qs.length → qs[j]? = some (.memory (a + 4 + BitVec.ofNat 32 (4 * j))) := by
        intro j hj
        rw [row_succ]; simpa using hq (j + 1) (by simpa using hj)
      intro j hj
      cases j with
      | zero =>
        have first : ∀ k, k < 4 →
            peek (landed (writeData m .word a v) rest qs) (a + BitVec.ofNat 32 k) =
              peek (writeData m .word a v) (a + BitVec.ofNat 32 k) := by
          intro k hk
          refine peek_landed hw' rest fun b hb => ?_
          obtain ⟨i, hi⟩ := List.mem_iff_getElem?.mp hb
          have hi2 : i < qs.length := (List.getElem?_eq_some_iff.mp hi).1
          have := hq' i hi2
          rw [hi, Option.some.injEq, Reached.memory.injEq] at this
          rw [this]
          simp only [covers, Size.bytes, BitVec.toNat_sub, BitVec.toNat_add, BitVec.toNat_ofNat,
            show BitVec.toNat (4 : Word) = 4 from rfl]
          have := a.isLt
          omega
        have same := readData_congr (size := .word) (a := a) first
        rw [landed_cons, show a + BitVec.ofNat 32 (4 * 0) = a by simp]
        exact same.trans (readData_writeData hw .word a v)
      | succ j =>
        rw [landed_cons, ← row_succ]
        exact ih (m := writeData m .word a v) (a := a + 4) hw' (by simpa using hl) (by omega) hq' j (by simpa using hj)

/-- A row of words of which the first that is refused is the one behind those that reached qs. -/
theorem storeWords_refused {e : Exn} {vs : List Word} {a : Word} {s : State} (hb : s.bus = []) (qs : List Reached)
    (hk : qs.length < vs.length)
    (hq : ∀ j, j < qs.length → writeReach s .write .word (a + BitVec.ofNat 32 (4 * j)) (vs.getD j 0) = qs[j]?)
    (h : writeReach s .write .word (a + BitVec.ofNat 32 (4 * qs.length)) (vs.getD qs.length 0) = none) :
    Machine.storeWords e a vs s = .error (e, { s with mem := landed s.mem vs qs }) := by
  induction vs generalizing a s qs with
  | nil => simp at hk
  | cons v rest ih =>
    cases qs with
    | nil =>
      simp at h
      simp only [Machine.storeWords, Machine.store, storeAs_fails hb h, bind, Except.bind]; rfl
    | cons q qs =>
      have h0 := hq 0 (by simp)
      simp at h0
      simp only [Machine.storeWords, Machine.store, storeAs_quiet hb h0, bind, Except.bind, landed_cons]
      exact ih (s := { s with mem := deposited s.mem .word q v }) (a := a + 4) hb qs (by simpa using hk)
        (fun j hj => by rw [row_succ, writeReach_mem]; simpa using hq (j + 1) (by simpa using hj))
        (by rw [row_succ, writeReach_mem]; simpa using h)

/-- The same of the words a coprocessor drives (44_coprocessor R435). -/
theorem copWrite_refused {vs : List Word} {a : Word} {s : State} (hb : s.bus = []) (qs : List Reached)
    (hk : qs.length < vs.length)
    (hq : ∀ j, j < qs.length → writeReach s .copWrite .word (a + BitVec.ofNat 32 (4 * j)) (vs.getD j 0) = qs[j]?)
    (h : writeReach s .copWrite .word (a + BitVec.ofNat 32 (4 * qs.length)) (vs.getD qs.length 0) = none) :
    copWrite a vs s = .error (.externalMemory, { s with mem := landed s.mem vs qs }) := by
  induction vs generalizing a s qs with
  | nil => simp at hk
  | cons v rest ih =>
    cases qs with
    | nil =>
      simp at h
      simp only [copWrite, storeAs_fails hb h, bind, Except.bind]; rfl
    | cons q qs =>
      have h0 := hq 0 (by simp)
      simp at h0
      simp only [copWrite, storeAs_quiet hb h0, bind, Except.bind, landed_cons]
      exact ih (s := { s with mem := deposited s.mem .word q v }) (a := a + 4) hb qs (by simpa using hk)
        (fun j hj => by rw [row_succ, writeReach_mem]; simpa using hq (j + 1) (by simpa using hj))
        (by rw [row_succ, writeReach_mem]; simpa using h)

/-- A row of words stored: refused at some word, or all of them granted. -/
theorem Alike.storeWords {s w : State} (h : Alike s w) (e : Exn) (a : Word) (vs : List Word) :
    (∃ u, storeWords e a vs w = .error (e, u) ∧ ∃ j, j < vs.length ∧ ¬Writable s (a + BitVec.ofNat 32 (4 * j))) ∨
      ∃ m, storeWords e a vs w = .ok { w with mem := m } ∧
        ∀ j, j < vs.length → ¬Unwritable s (a + BitVec.ofNat 32 (4 * j)) := by
  induction vs generalizing a w with
  | nil => exact .inr ⟨w.mem, rfl, by simp⟩
  | cons v rest ih =>
    obtain ⟨g, h1⟩ | ⟨q, g, h1⟩ := h.store e a v
    · exact .inl ⟨w, by simp only [Machine.storeWords, h1, bind, Except.bind], 0, by simp,
        by simpa using not_writable_of g⟩
    · obtain ⟨u, h2, j, hj, h3⟩ | ⟨m, h2, h3⟩ := ih (w := { w with mem := deposited w.mem .word q v })
        ⟨h.bus, h.level, h.virtualMode, h.inputs⟩ (a + 4)
      · exact .inl ⟨u, by simp only [Machine.storeWords, h1, bind, Except.bind, h2], j + 1, by simpa using hj,
          by rw [← row_succ]; exact h3⟩
      · refine .inr ⟨m, by simp only [Machine.storeWords, h1, bind, Except.bind, h2], fun j hj => ?_⟩
        cases j with
        | zero => simpa using not_unwritable_of g
        | succ j => rw [← row_succ]; exact h3 j (by simpa using hj)

/-- A row of words loaded into registers other than the PSW: refused at some word, or all of them granted. -/
theorem Alike.loadRegs {s w : State} (h : Alike s w) (e : Exn) (a : Word) {rs : List Reg} (hq : .psw ∉ rs) :
    (∃ u, loadRegs e a rs w = .error (e, u)) ∨
      ∃ g, loadRegs e a rs w = .ok { w with regs := g } ∧ Alike s { w with regs := g } ∧
        (∀ r, r ∉ rs → readReg r g = reg w r) ∧
        ∀ j, j < rs.length → ¬Unreadable s (a + BitVec.ofNat 32 (4 * j)) := by
  induction rs generalizing a w with
  | nil => exact .inr ⟨w.regs, rfl, h, fun _ _ => rfl, by simp⟩
  | cons r rest ih =>
    simp only [List.mem_cons, not_or] at hq
    obtain ⟨_, h1⟩ | ⟨g, p, _, h1⟩ := h.load e a
    · exact .inl ⟨w, by simp only [Machine.loadRegs, h1, bind, Except.bind]⟩
    · obtain ⟨u, h2⟩ | ⟨g', h2, h3, h4, h5⟩ := ih (h.setReg (Ne.symm hq.1) (received w.mem .word p)) (a + 4) hq.2
      · exact .inl ⟨u, by simp only [Machine.loadRegs, h1, bind, Except.bind, h2]⟩
      · refine .inr ⟨g', by simp only [Machine.loadRegs, h1, bind, Except.bind, h2]; rfl, h3, fun r' hr => ?_,
          fun j hj => ?_⟩
        · simp only [List.mem_cons, not_or] at hr
          rw [h4 r' hr.2, reg_setReg_ne hr.1]
        · cases j with
          | zero => simpa using g
          | succ j => rw [← row_succ]; exact h5 j (by simpa using hj)

/-! ## The pieces of a process switch -/

/-- XSWITCH_ONE with kernel level forced: it raises the exception of its caller, or saves the context; PCBP and ISP stay
(46_operating_system R476). -/
theorem xswitchOne_reach {s w : State} (h : Alike s w) (hk : w.kernelForced = true) (hp : w.regs.pcbp = s.regs.pcbp)
    (t : Word) (e : Exn) :
    (∃ u, xswitchOne t e w = .error (e, u) ∧ ¬ContextGranted t s) ∨
      ∃ v, xswitchOne t e w = .ok v ∧ Alike s v ∧ v.kernelForced = true ∧ v.regs.pcbp = s.regs.pcbp ∧
        ¬ContextRefused t s ∧
        ∀ q p, writeReach s .write .word (pcbWord s 1) w.regs.pc = some q → readReach s .operandFetch .word t = some p →
          pswR (received (deposited w.mem .word q w.regs.pc) .word p) = true →
          ∀ k ∈ registerPlaces, ¬Unwritable s (pcbWord s k) := by
  have place : ∀ k : Nat, k ∈ [0, 1, 2] ++ registerPlaces → ContextGranted t s → Writable s (pcbWord s k) :=
    fun k hk g => g.2 k hk
  have p1 : pcbWord s 1 = w.regs.pcbp + 4 := by rw [hp]; rfl
  generalize hr : xswitchOne t e w = r
  simp only [xswitchOne, bind, Except.bind] at hr
  obtain ⟨g1, h1⟩ | ⟨q1, g1, h1⟩ := h.store e (w.regs.pcbp + 4) w.regs.pc <;> rw [h1] at hr <;> simp only [] at hr
  · exact .inl ⟨w, hr.symm, fun g => not_writable_of g1 (p1 ▸ place 1 (by decide) g)⟩
  set w1 := { w with mem := deposited w.mem .word q1 w.regs.pc } with hw1
  have a1 : Alike s w1 := ⟨h.bus, h.level, h.virtualMode, h.inputs⟩
  obtain ⟨g2, h2⟩ | ⟨g2, p2, g2', h2⟩ := a1.load e t <;> rw [h2] at hr <;> simp only [] at hr
  · exact .inl ⟨w1, hr.symm, fun g => g.1 g2⟩
  set image := received w1.mem .word p2 with himage
  set w2 := setPsw (withR (pswR image) w1.regs.psw) w1 with hw2
  have a2 : Alike s w2 := a1.setPsw hk _
  have b2 : w2.regs.pcbp = s.regs.pcbp := hp
  have r2 : pswR w2.regs.psw = pswR image := by
    show pswR (withR (pswR image) w1.regs.psw &&& maskPsw) = _
    cases pswR image <;> simp [pswR, withR, merge, maskR, maskPsw]
  obtain ⟨g3, h3⟩ | ⟨q3, g3, h3⟩ := a2.store e w2.regs.pcbp w2.regs.psw <;> rw [h3] at hr <;> simp only [] at hr
  · refine .inl ⟨w2, hr.symm, fun g => not_writable_of g3 ?_⟩
    rw [b2]; simpa [pcbWord] using place 0 (by decide) g
  set w3 := { w2 with mem := deposited w2.mem .word q3 w2.regs.psw } with hw3
  have a3 : Alike s w3 := ⟨a2.bus, a2.level, a2.virtualMode, a2.inputs⟩
  obtain ⟨g4, h4⟩ | ⟨q4, g4, h4⟩ := a3.store e (w3.regs.pcbp + 8) w3.regs.sp <;> rw [h4] at hr <;> simp only [] at hr
  · refine .inl ⟨w3, hr.symm, fun g => not_writable_of g4 ?_⟩
    rw [show w3.regs.pcbp = s.regs.pcbp from b2]; exact place 2 (by decide) g
  set w4 := { w3 with mem := deposited w3.mem .word q4 w3.regs.sp } with hw4
  have a4 : Alike s w4 := ⟨a3.bus, a3.level, a3.virtualMode, a3.inputs⟩
  have b4 : w4.regs.pcbp = s.regs.pcbp := hp
  have r4 : pswR w4.regs.psw = pswR image := r2
  have nr : ¬ContextRefused t s := by
    rintro (g | ⟨k, hk', g⟩)
    · exact g2 g
    · simp only [List.mem_cons, List.not_mem_nil, or_false] at hk'
      obtain rfl | rfl | rfl := hk'
      · refine not_unwritable_of g3 ?_; rw [b2]; simpa [pcbWord] using g
      · exact not_unwritable_of g1 (p1 ▸ g)
      · refine not_unwritable_of g4 ?_; rw [show w3.regs.pcbp = s.regs.pcbp from b2]; exact g
  cases ht : pswR image with
  | false =>
    rw [r4, ht] at hr
    refine .inr ⟨w4, hr.symm, a4, hk, hp, nr, fun q p hq hp' hi => ?_⟩
    rw [p1, g1] at hq
    cases hq
    rw [g2'] at hp'
    cases hp'
    rw [← himage, ht] at hi
    cases hi
  | true =>
    rw [r4, ht] at hr
    simp only [if_true] at hr
    obtain ⟨g5, h5⟩ | ⟨q5, g5, h5⟩ := a4.store e (w4.regs.pcbp + 20) w4.regs.ap <;> rw [h5] at hr <;> simp only [] at hr
    · refine .inl ⟨w4, hr.symm, fun g => not_writable_of g5 ?_⟩
      rw [b4]; exact place 5 (by decide) g
    set w5 := { w4 with mem := deposited w4.mem .word q5 w4.regs.ap } with hw5
    have a5 : Alike s w5 := ⟨a4.bus, a4.level, a4.virtualMode, a4.inputs⟩
    have b5 : w5.regs.pcbp = s.regs.pcbp := b4
    obtain ⟨g6, h6⟩ | ⟨q6, g6, h6⟩ := a5.store e (w5.regs.pcbp + 24) w5.regs.fp <;> rw [h6] at hr <;> simp only [] at hr
    · refine .inl ⟨w5, hr.symm, fun g => not_writable_of g6 ?_⟩
      rw [b5]; exact place 6 (by decide) g
    set w6 := { w5 with mem := deposited w5.mem .word q6 w5.regs.fp } with hw6
    have a6 : Alike s w6 := ⟨a5.bus, a5.level, a5.virtualMode, a5.inputs⟩
    have p6 : w6.regs.pcbp = s.regs.pcbp := b4
    have place' : ∀ j : Nat, w6.regs.pcbp + 28 + BitVec.ofNat 32 (4 * j) = pcbWord s (7 + j) := by
      intro j
      rw [p6, pcbWord, BitVec.add_assoc, show (28 : Word) = BitVec.ofNat 32 28 from rfl, ← BitVec.ofNat_add]
      congr 2
      omega
    obtain ⟨u, h7, j, hj, g7⟩ | ⟨m, h7, g7⟩ := a6.storeWords e (w6.regs.pcbp + 28) (generalRegs.map (reg w6)) <;>
      rw [h7] at hr <;> simp only [] at hr
    · refine .inl ⟨u, hr.symm, fun g => g7 ?_⟩
      rw [place']
      simp only [List.length_map, generalRegs, List.length_cons, List.length_nil] at hj
      have : ∀ i < 9, 7 + i ∈ [0, 1, 2] ++ registerPlaces := by decide
      exact place (7 + j) (this j hj) g
    · refine .inr ⟨_, hr.symm, ?_, hk, p6, nr, fun _ _ _ _ _ k hk' => ?_⟩
      · exact Alike.setReg (w := { w6 with mem := m }) ⟨a6.bus, a6.level, a6.virtualMode, a6.inputs⟩ (by decide) _
      · have cases9 : ∀ k ∈ registerPlaces, k = 5 ∨ k = 6 ∨ ∃ j < 9, k = 7 + j := by decide
        obtain rfl | rfl | ⟨j, hj, rfl⟩ := cases9 k hk'
        · have := not_unwritable_of g5; rw [b4] at this; exact this
        · have := not_unwritable_of g6; rw [b5] at this; exact this
        · rw [← place']; exact g7 j (by simpa [generalRegs] using hj)

theorem Alike.flushCache {s w : State} (h : Alike s w) : Alike s (flushCache w) :=
  ⟨h.bus, h.level, h.virtualMode, h.inputs⟩

theorem loadImage_keeps (image old : Word) :
    pswI (loadImage image old &&& maskPsw) = pswI image ∧ pswR (loadImage image old &&& maskPsw) = pswR old ∧
      pswR (clearI (loadImage image old &&& maskPsw) &&& maskPsw) = pswR old := by
  cases h : pswR old <;>
    simp_all [pswI, pswR, clearI, loadImage, withCodes, withR, merge, maskI, maskCodes, maskR, maskPsw]

/-- The end of XSWITCH_TWO: PCBP past the initial context, the cache flushed (46_operating_system R477). -/
theorem xswitchTwo_end {s x : State} (h : Alike s x) (hk : x.kernelForced = true) {t image old : Word}
    (hx : x.regs.psw = loadImage image old &&& maskPsw) (hp : x.regs.pcbp = t) :
    let y := if pswI x.regs.psw then setReg .pcbp (x.regs.pcbp + 12) (setPsw (clearI x.regs.psw) x) else x
    let z := if pswCfd y.regs.psw then y else flushCache y
    Alike s z ∧ z.kernelForced = true ∧ pswR z.regs.psw = pswR old ∧ z.regs.pcbp = processPcbp t image := by
  obtain ⟨e1, e2, e3⟩ := loadImage_keeps image old
  have key : ∀ y : State, Alike s y ∧ y.kernelForced = true ∧ pswR y.regs.psw = pswR old ∧
      y.regs.pcbp = processPcbp t image →
      let z := if pswCfd y.regs.psw then y else flushCache y
      Alike s z ∧ z.kernelForced = true ∧ pswR z.regs.psw = pswR old ∧ z.regs.pcbp = processPcbp t image := by
    rintro y ⟨h1, h2, h3, h4⟩
    by_cases hc : pswCfd y.regs.psw = true
    · simp only [hc, if_true]; exact ⟨h1, h2, h3, h4⟩
    · simp only [hc]; exact ⟨h1.flushCache, h2, h3, h4⟩
  refine key _ ?_
  rw [hx, e1, hp]
  cases hi : pswI image with
  | true =>
    simp only [if_true]
    exact ⟨(h.setPsw hk _).setReg (by decide) _, hk, e3, by simp [processPcbp, hi]; rfl⟩
  | false =>
    simp only [Bool.false_eq_true, if_false]
    exact ⟨h, hk, by rw [hx]; exact e2, by simp [processPcbp, hi, hp]⟩

/-- XSWITCH_TWO with kernel level forced raises the exception of its caller where a word of the PCB cannot be read, and
only there; else R stays, and PCBP is at the PCB or past its initial context (46_operating_system R477). -/
theorem xswitchTwo_reach {s w : State} (h : Alike s w) (hk : w.kernelForced = true) (t : Word) (e : Exn) :
    (∃ u, xswitchTwo t e w = .error (e, u) ∧ u.mem = w.mem ∧ ContextUnreadable t s) ∨
      ∃ v p, xswitchTwo t e w = .ok v ∧ Alike s v ∧ v.kernelForced = true ∧ ¬ContextUnreadable t s ∧
        pswR v.regs.psw = pswR w.regs.psw ∧ readReach s .operandFetch .word t = some p ∧
        v.regs.pcbp = processPcbp t (received w.mem .word p) := by
  generalize hr : xswitchTwo t e w = r
  simp only [xswitchTwo, bind, Except.bind] at hr
  set w1 := setReg .pcbp t w with hw1
  have a1 : Alike s w1 := h.setReg (by decide) t
  obtain ⟨g1, h1⟩ | ⟨g1, p1, g1', h1⟩ := a1.load e t <;> rw [h1] at hr <;> simp only [] at hr
  · exact .inl ⟨w1, hr.symm, rfl, t, by simp, g1⟩
  set w2 := setPsw (loadImage (received w1.mem .word p1) w1.regs.psw) w1 with hw2
  have a2 : Alike s w2 := a1.setPsw hk _
  rw [show w2.regs.pcbp = t from rfl] at hr
  obtain ⟨g2, h2⟩ | ⟨g2, p2, g2', h2⟩ := a2.load e (t + 4) <;> rw [h2] at hr <;> simp only [] at hr
  · exact .inl ⟨w2, hr.symm, rfl, t + 4, by simp, g2⟩
  set w3 := setReg .pc (received w2.mem .word p2) w2 with hw3
  have a3 : Alike s w3 := a2.setReg (by decide) _
  rw [show w3.regs.pcbp = t from rfl] at hr
  obtain ⟨g3, h3⟩ | ⟨g3, p3, g3', h3⟩ := a3.load e (t + 8) <;> rw [h3] at hr <;> simp only [] at hr
  · exact .inl ⟨w3, hr.symm, rfl, t + 8, by simp, g3⟩
  obtain ⟨a5, k5, r5, b5⟩ := xswitchTwo_end (a3.setReg (r := .sp) (by decide) (received w3.mem .word p3)) hk
    (t := t) (image := received w.mem .word p1) (old := w.regs.psw) rfl rfl
  refine .inr ⟨_, p1, hr.symm, a5, k5, ?_, r5, g1', b5⟩
  rintro ⟨x, hx, g⟩
  simp only [List.mem_cons, List.not_mem_nil, or_false] at hx
  obtain rfl | rfl | rfl := hx
  · exact g1 g
  · exact g2 g
  · exact g3 g

/-- PCBP pushed on the interrupt stack, or refused (10_state R56). -/
theorem pushPcbp_reach {s w : State} (h : Alike s w) :
    (pushPcbp w = .error (.interruptStack, w) ∧ ¬Writable s w.regs.isp) ∨
      ∃ m, pushPcbp w = .ok (setReg .isp (w.regs.isp + 4) { w with mem := m }) ∧ ¬Unwritable s w.regs.isp := by
  obtain ⟨g, h1⟩ | ⟨q, g, h1⟩ := h.store .interruptStack w.regs.isp w.regs.pcbp
  · exact .inl ⟨by simp only [pushPcbp, h1, bind, Except.bind], not_writable_of g⟩
  · exact .inr ⟨deposited w.mem .word q w.regs.pcbp, by simp only [pushPcbp, h1, bind, Except.bind],
      not_unwritable_of g⟩

/-! ## The pieces of a gate -/

/-- The codes are not the level. -/
theorem Alike.setCodes {s w : State} (h : Alike s w) (isc : BitVec 4) (tm : Bool) (et : BitVec 2) :
    Alike s (setCodes isc tm et w) := by
  refine ⟨h.bus, ?_, h.virtualMode, h.inputs⟩
  rw [← h.level]
  refine congrArg (fun c => if w.kernelForced = true then 0 else c) ?_
  show pswCm (withCodes isc tm et w.regs.psw &&& maskPsw) = pswCm w.regs.psw
  apply BitVec.eq_of_getLsbD_eq
  intro i hi
  have : i = 0 ∨ i = 1 := by omega
  rcases this with rfl | rfl <;> simp [pswCm, withCodes, merge, maskCodes, maskPsw]

/-- The bounds test where a bound cannot be read (46_operating_system R472). -/
theorem checkBounds_unreadable {s : State} (hb : s.bus = [])
    (h : Unreadable (forceKernel true s) (pcbWord s 3) ∨ Unreadable (forceKernel true s) (pcbWord s 4)) :
    checkBounds s = .error (.gatePcb, forceKernel true s) := by
  have a : Alike (forceKernel true s) (forceKernel true s) := .refl hb
  obtain ⟨-, h1⟩ | ⟨g1, p1, -, h1⟩ := a.load .gatePcb (pcbWord s 3)
  · simp only [checkBounds, bind, Except.bind]
    rw [show (forceKernel true s).regs.pcbp + 12 = pcbWord s 3 from rfl, h1]
  obtain ⟨-, h2⟩ | ⟨g2, -⟩ := a.load .gatePcb (pcbWord s 4)
  · simp only [checkBounds, bind, Except.bind]
    rw [show (forceKernel true s).regs.pcbp + 12 = pcbWord s 3 from rfl, h1]
    simp only []
    rw [show (forceKernel true s).regs.pcbp + 16 = pcbWord s 4 from rfl, h2]
  · exact absurd h (by simp [g1, g2])

/-- The bounds test where both bounds are read (46_operating_system R472). -/
theorem checkBounds_read {s : State} (hb : s.bus = []) {lo hi : Word}
    (h1 : memRead (forceKernel true s) .operandFetch .word (pcbWord s 3) = some lo)
    (h2 : memRead (forceKernel true s) .operandFetch .word (pcbWord s 4) = some hi) :
    checkBounds s = if s.regs.sp < lo ∨ hi ≤ s.regs.sp then .error (.stackBound, forceKernel true s)
      else .ok (forceKernel false s) := by
  have l1 : load .gatePcb (pcbWord s 3) (forceKernel true s) = .ok (lo, forceKernel true s) :=
    loadAs_quiet (s := forceKernel true s) hb h1 _
  have l2 : load .gatePcb (pcbWord s 4) (forceKernel true s) = .ok (hi, forceKernel true s) :=
    loadAs_quiet (s := forceKernel true s) hb h2 _
  simp only [checkBounds, bind, Except.bind]
  rw [show (forceKernel true s).regs.pcbp + 12 = pcbWord s 3 from rfl, l1]
  simp only []
  rw [show (forceKernel true s).regs.pcbp + 16 = pcbWord s 4 from rfl, l2]
  simp only [show (forceKernel true s).regs.sp = s.regs.sp from rfl, BitVec.ult, BitVec.ule, decide_eq_true_eq,
    BitVec.lt_def, BitVec.le_def]
  split
  · rename_i g; rw [if_pos (.inl g)]
  · rename_i g
    split
    · rename_i g'; rw [if_pos (.inr g')]
    · rename_i g'; rw [if_neg (by simp [g, g'])]; rfl

/-- A context pushed, the codes of the PSW replaced: refused at the first word, with nothing changed, or at the second,
or both written (46_operating_system R472, 60_exceptions R520). -/
theorem pushContext_reach {s : State} (hb : s.bus = []) (pc : Word) (isc : BitVec 4) (tm : Bool) (et : BitVec 2)
    (image : Word → Word) (hi : image s.regs.psw = withCodes isc tm et s.regs.psw) :
    let x := setCodes isc tm et s
    (writeReach s .write .word s.regs.sp pc = none → pushContext pc image s = .error (.stackFault, s)) ∧
      ∀ q1, writeReach s .write .word s.regs.sp pc = some q1 →
        (writeReach s .write .word (s.regs.sp + 4) x.regs.psw = none →
          pushContext pc image s = .error (.stackFault, { x with mem := deposited s.mem .word q1 pc })) ∧
        ∀ q2, writeReach s .write .word (s.regs.sp + 4) x.regs.psw = some q2 →
          pushContext pc image s =
            .ok { x with mem := deposited (deposited s.mem .word q1 pc) .word q2 x.regs.psw } := by
  have a : Alike s s := .refl hb
  refine ⟨fun h => ?_, fun q1 h1 => ?_⟩
  · simp only [pushContext, store, storeAs_fails hb h, bind, Except.bind]
  · have h1' : store .stackFault s.regs.sp pc s = .ok { s with mem := deposited s.mem .word q1 pc } :=
      storeAs_quiet hb h1 _
    have e : setPsw (image s.regs.psw) { s with mem := deposited s.mem .word q1 pc } =
        setCodes isc tm et { s with mem := deposited s.mem .word q1 pc } := by
      rw [hi]; rfl
    have a2 : Alike s (setCodes isc tm et { s with mem := deposited s.mem .word q1 pc }) :=
      Alike.setCodes (s := s) (w := { s with mem := deposited s.mem .word q1 pc }) ⟨hb, rfl, rfl, rfl⟩ _ _ _
    refine ⟨fun h2 => ?_, fun q2 h2 => ?_⟩
    · simp only [pushContext, h1', bind, Except.bind]
      rw [e]
      exact storeAs_fails (s := setCodes isc tm et { s with mem := deposited s.mem .word q1 pc }) hb
        ((a2.writeReach _ _ _ _).trans h2) _
    · simp only [pushContext, h1', bind, Except.bind]
      rw [e]
      exact storeAs_quiet (s := setCodes isc tm et { s with mem := deposited s.mem .word q1 pc }) hb
        ((a2.writeReach _ _ _ _).trans h2) _

/-- The tables of a gate where a word of them cannot be read; SP and PC as before (46_operating_system R473). -/
theorem gateMechanism_unreadable {s : State} (hb : s.bus = []) (i j : Word) (e : Exn) :
    (Unreadable (forceKernel true s) i → gateMechanism i j e s = .error (e, forceKernel true s)) ∧
      ∀ p, readReach (forceKernel true s) .operandFetch .word i = some p →
        Unreadable (forceKernel true s) (received s.mem .word p + j) ∨
          Unreadable (forceKernel true s) (received s.mem .word p + j + 4) →
        gateMechanism i j e s = .error (e, forceKernel true s) := by
  have a : Alike (forceKernel true s) (forceKernel true s) := .refl hb
  refine ⟨fun h => ?_, fun p hp h => ?_⟩
  · simp only [gateMechanism, bind, Except.bind]
    rw [show load e i (forceKernel true s) = _ from loadAs_fails (s := forceKernel true s) hb h e]
  · obtain ⟨g, -⟩ | ⟨-, p', hp', h1⟩ := a.load e i
    · rw [unreadable_iff, hp] at g; cases g
    rw [hp] at hp'; cases hp'
    simp only [gateMechanism, bind, Except.bind]
    rw [h1]
    simp only [show (forceKernel true s).mem = s.mem from rfl]
    obtain ⟨-, h2⟩ | ⟨g2, p2, -, h2⟩ := a.load e (received s.mem .word p + j)
    · rw [h2]
    rw [h2]
    simp only []
    obtain ⟨-, h3⟩ | ⟨g3, -⟩ := a.load e (received s.mem .word p + j + 4)
    · rw [h3]
    · exact absurd h (not_or.mpr ⟨g2, g3⟩)

end Sys2Proof.Machine
end

