-- ==== Sys2Proof/Laws/Shapes.lean ====
section
/-! SUPPORT. What each instruction shape answers when its operands are in place, said once; and that every shape keeps the
invariant. -/

namespace Sys2Proof.Machine

/-! ## Checks that pass -/

theorem checkOperands_ok {os : List (Role × Operand)} {s : State} (h : ∀ e ∈ os, e.2.wellFormed e.1 = true) :
    checkOperands os s = .ok () := by
  have : os.all (fun p => p.1.accepts p.2) = true := List.all_eq_true.mpr fun e he => accepts_of_wellFormed (h e he)
  simp [checkOperands, this]

theorem checkPrivilege_ok {dst : Operand} {s : State} (h : Permitted dst s) : checkPrivilege dst.mode s = .ok () := by
  unfold checkPrivilege
  split
  · rename_i r hr
    by_cases hp : isPrivileged r = true
    · simp [h r hr hp]
    · simp [hp]
  · rfl

/-- A well-formed destination resolves to no program counter. -/
theorem resolve_ne_pc {role : Role} {dst : Operand} {s : State} {p : Place} (h : dst.wellFormed role = true)
    (hr : resolve dst.mode s = .ok (p, s)) : p ≠ .register .pc := by
  rintro rfl
  have hm : dst.mode.wellFormed = true := by
    simp only [Operand.wellFormed, Bool.and_eq_true] at h; exact h.1.1
  unfold resolve at hr
  split at hr
  · rename_i r e
    rw [e] at hm
    simp only [Except.ok.injEq, Prod.mk.injEq, Place.register.injEq, and_true] at hr
    subst hr
    simp [Mode.wellFormed] at hm
  · cases he : effectiveAddress dst.mode s <;> rw [he] at hr <;> cases hr

theorem length_cons_two (c : Byte) (a b : Operand) : (c :: (a.encode ++ b.encode)).length = 1 + a.length + b.length := by
  simp only [List.length_cons, List.length_append, Operand.encode_length]; omega

theorem length_cons_one (c : Byte) (a : Operand) : (c :: a.encode).length = 1 + a.length := by
  simp only [List.length_cons, Operand.encode_length]; omega

theorem length_cons_three (c : Byte) (a b d : Operand) :
    (c :: (a.encode ++ b.encode ++ d.encode)).length = 1 + a.length + b.length + d.length := by
  simp only [List.length_cons, List.length_append, Operand.encode_length]; omega

theorem length_cons_four (c : Byte) (a b d e : Operand) :
    (c :: (a.encode ++ b.encode ++ d.encode ++ e.encode)).length = 1 + a.length + b.length + d.length + e.length := by
  simp only [List.length_cons, List.length_append, Operand.encode_length]; omega

/-! ## The statements' names for the shapes' flags and counts -/

theorem keepsFlags_0 (p : Place) : keepsFlags [] p = (p == .register .psw) := by simp [keepsFlags]

theorem keepsFlags_1 (a : Operand) (p : Place) : keepsFlags [a] p = (readsPsw a || p == .register .psw) := by
  simp [keepsFlags]

theorem keepsFlags_2 (a b : Operand) (p : Place) :
    keepsFlags [a, b] p = (readsPsw a || readsPsw b || p == .register .psw) := by simp [keepsFlags]

theorem keepsFlags_3 (a b c : Operand) (p : Place) :
    keepsFlags [a, b, c] p = (readsPsw a || readsPsw b || readsPsw c || p == .register .psw) := by
  simp [keepsFlags, Bool.or_assoc]

/-- Where no source is %psw every overflow may trap. -/
theorem overflowTrap_noSource (p : Place) (r : Result) : overflowTrap p false r = r.overflow := by simp [overflowTrap]

theorem overflowTrap_1 (p : Place) (a : Operand) (r : Result) :
    overflowTrap p (readsPsw a) r = (r.overflow && tellsOverflow [a] p) := by simp [overflowTrap, tellsOverflow, isPsw]

theorem overflowTrap_2 (p : Place) (a b : Operand) (r : Result) :
    overflowTrap p (readsPsw a || readsPsw b) r = (r.overflow && tellsOverflow [a, b] p) := by
  simp [overflowTrap, tellsOverflow, isPsw]

/-- The five low bits of a value, as a remainder. -/
theorem lowFive_eq (v : Value) : lowFive v = v.bits.toNat % 32 := by simp [lowFive, BitVec.extractLsb'_toNat]

/-! ## The shapes with a destination -/

theorem moveShape_next {cur ts t : OType} {src dst : Operand} {s : State} {v : Value} {p : Place}
    {f : OType → Value → Result} (hi : s.Inv) (hs : SourceIs cur src s ts v) (hd : DestIs ts dst s t p)
    (hz : (f t v).zeroDivide = false) :
    ∃ w, moveShape cur src dst f s = .next (complete ((f t v).overflow && tellsOverflow [src] p && pswOe s.regs.psw) w) ∧
      Wrote t p (f t v).value (readsPsw src || p == .register .psw) (f t v).flags (1 + src.length + dst.length) s w := by
  obtain ⟨s1, rfl, s3⟩ := hs
  obtain ⟨d1, d2, rfl, d4, d5⟩ := hd
  obtain ⟨w, h1, h2⟩ := finish_wrote hi (resolve_ne_pc d1 d4) d5 (readsPsw src) (1 + src.length + dst.length) (f _ v) hz
  rw [overflowTrap_1] at h1
  refine ⟨w, ?_, h2⟩
  simp only [moveShape, checkOperands_ok (os := [(.src, src), (.dst, dst)]) (s := s) (by simp [s1, d1]),
    checkPrivilege_ok d2]
  simp only [bind, Except.bind, s3, d4, h1, conclude]

theorem twoAddress_next {cur ts t : OType} {src dst : Operand} {s : State} {v d : Value} {p : Place}
    {f : OType → Value → Value → Result} (hi : s.Inv) (hs : SourceIs cur src s ts v) (hd : DestIs ts dst s t p)
    (hr : readPlace t p s = .ok (d, s)) (hz : (f t d v).zeroDivide = false) :
    ∃ w, twoAddress cur src dst f s = .next (complete ((f t d v).overflow && tellsOverflow [src] p && pswOe s.regs.psw) w) ∧
      Wrote t p (f t d v).value (readsPsw src || p == .register .psw) (f t d v).flags (1 + src.length + dst.length) s w := by
  obtain ⟨s1, rfl, s3⟩ := hs
  obtain ⟨d1, d2, rfl, d4, d5⟩ := hd
  obtain ⟨w, h1, h2⟩ := finish_wrote hi (resolve_ne_pc d1 d4) d5 (readsPsw src) (1 + src.length + dst.length) (f _ d v) hz
  rw [overflowTrap_1] at h1
  refine ⟨w, ?_, h2⟩
  simp only [twoAddress, checkOperands_ok (os := [(.src, src), (.dst, dst)]) (s := s) (by simp [s1, d1]),
    checkPrivilege_ok d2]
  simp only [bind, Except.bind, s3, d4, hr, h1, conclude]

theorem threeAddress_next {cur t1 t2 t : OType} {src1 src2 dst : Operand} {s : State} {a b : Value} {p : Place}
    {f : OType → OType → Value → Value → Result} (hi : s.Inv) (hs : SourceIs cur src1 s t1 a)
    (hs2 : SourceIs t1 src2 s t2 b) (hd : DestIs t2 dst s t p) (hz : (f t2 t b a).zeroDivide = false) :
    ∃ w, threeAddress cur src1 src2 dst f s =
        .next (complete ((f t2 t b a).overflow && tellsOverflow [src1, src2] p && pswOe s.regs.psw) w) ∧
      Wrote t p (f t2 t b a).value (readsPsw src1 || readsPsw src2 || p == .register .psw) (f t2 t b a).flags
        (1 + src1.length + src2.length + dst.length) s w := by
  obtain ⟨s1, rfl, s3⟩ := hs
  obtain ⟨u1, rfl, u3⟩ := hs2
  obtain ⟨d1, d2, rfl, d4, d5⟩ := hd
  obtain ⟨w, h1, h2⟩ := finish_wrote hi (resolve_ne_pc d1 d4) d5 (readsPsw src1 || readsPsw src2)
    (1 + src1.length + src2.length + dst.length) (f _ _ b a) hz
  rw [overflowTrap_2] at h1
  refine ⟨w, ?_, h2⟩
  simp only [threeAddress, checkOperands_ok (os := [(.src, src1), (.src, src2), (.dst, dst)]) (s := s) (by simp [s1, u1, d1]),
    checkPrivilege_ok d2]
  simp only [bind, Except.bind, s3, u3, d4, h1, conclude]

theorem readModify_next {cur t : OType} {dst : Operand} {s : State} {d : Value} {p : Place}
    {f : OType → Value → Result} (hi : s.Inv) (hd : DestIs cur dst s t p) (hr : readPlace t p s = .ok (d, s))
    (hz : (f t d).zeroDivide = false) :
    ∃ w, readModify cur dst f s = .next (complete ((f t d).overflow && pswOe s.regs.psw) w) ∧
      Wrote t p (f t d).value (p == .register .psw) (f t d).flags (1 + dst.length) s w := by
  obtain ⟨d1, d2, rfl, d4, d5⟩ := hd
  obtain ⟨w, h1, h2⟩ := finish_wrote hi (resolve_ne_pc d1 d4) d5 false (1 + dst.length) (f _ d) hz
  rw [overflowTrap_noSource] at h1
  refine ⟨w, ?_, by simpa using h2⟩
  simp only [readModify, checkOperands_ok (os := [(.dst, dst)]) (s := s) (by simp [d1]), checkPrivilege_ok d2]
  simp only [bind, Except.bind, d4, hr, h1, conclude]

theorem writeOnly_next {cur t : OType} {dst : Operand} {s : State} {p : Place} {r : Result} (hi : s.Inv)
    (hd : DestIs cur dst s t p) (hz : r.zeroDivide = false) :
    ∃ w, writeOnly cur dst r s = .next (complete (r.overflow && pswOe s.regs.psw) w) ∧
      Wrote t p r.value (p == .register .psw) r.flags (1 + dst.length) s w := by
  obtain ⟨d1, d2, rfl, d4, d5⟩ := hd
  obtain ⟨w, h1, h2⟩ := finish_wrote hi (resolve_ne_pc d1 d4) d5 false (1 + dst.length) r hz
  rw [overflowTrap_noSource] at h1
  refine ⟨w, ?_, by simpa using h2⟩
  simp only [writeOnly, checkOperands_ok (os := [(.dst, dst)]) (s := s) (by simp [d1]), checkPrivilege_ok d2]
  simp only [bind, Except.bind, d4, h1, conclude]

theorem extractShape_next {cur t1 t2 t3 t : OType} {width offset src dst : Operand} {s : State} {wv ov v : Value}
    {p : Place} (hi : s.Inv) (h1 : SourceIs cur width s t1 wv) (h2 : SourceIs t1 offset s t2 ov)
    (h3 : SourceIs t2 src s t3 v) (hd : DestIs t3 dst s t p) :
    ∃ w, extractShape cur width offset src dst s = .next (complete false w) ∧
      Wrote t p (extractResult t wv ov v).value (readsPsw width || readsPsw offset || readsPsw src || p == .register .psw)
        (extractResult t wv ov v).flags (1 + width.length + offset.length + src.length + dst.length) s w := by
  obtain ⟨a1, rfl, a3⟩ := h1
  obtain ⟨b1, rfl, b3⟩ := h2
  obtain ⟨c1, rfl, c3⟩ := h3
  obtain ⟨d1, d2, rfl, d4, d5⟩ := hd
  obtain ⟨w, e1, e2⟩ := finish_wrote hi (resolve_ne_pc d1 d4) d5 (readsPsw width || readsPsw offset || readsPsw src)
    (1 + width.length + offset.length + src.length + dst.length) (extractResult _ wv ov v) rfl
  refine ⟨w, ?_, e2⟩
  simp only [extractShape, checkOperands_ok (os := [(.src, width), (.src, offset), (.src, src), (.dst, dst)]) (s := s)
    (by simp [a1, b1, c1, d1]), checkPrivilege_ok d2]
  simp only [bind, Except.bind, a3, b3, c3, d4, e1, conclude]
  rfl

theorem insertShape_next {cur t1 t2 t3 t : OType} {width offset src dst : Operand} {s : State} {wv ov v d : Value}
    {p : Place} (hi : s.Inv) (h1 : SourceIs cur width s t1 wv) (h2 : SourceIs t1 offset s t2 ov)
    (h3 : SourceIs t2 src s t3 v) (hd : DestIs t3 dst s t p) (hr : readPlace t p s = .ok (d, s)) :
    ∃ w, insertShape cur width offset src dst s = .next (complete false w) ∧
      Wrote t p (insertResult t wv ov v d).value
        (readsPsw width || readsPsw offset || readsPsw src || p == .register .psw)
        (insertResult t wv ov v d).flags (1 + width.length + offset.length + src.length + dst.length) s w := by
  obtain ⟨a1, rfl, a3⟩ := h1
  obtain ⟨b1, rfl, b3⟩ := h2
  obtain ⟨c1, rfl, c3⟩ := h3
  obtain ⟨d1, d2, rfl, d4, d5⟩ := hd
  obtain ⟨w, e1, e2⟩ := finish_wrote hi (resolve_ne_pc d1 d4) d5 (readsPsw width || readsPsw offset || readsPsw src)
    (1 + width.length + offset.length + src.length + dst.length) (insertResult _ wv ov v d) rfl
  refine ⟨w, ?_, e2⟩
  simp only [insertShape, checkOperands_ok (os := [(.src, width), (.src, offset), (.src, src), (.dst, dst)]) (s := s)
    (by simp [a1, b1, c1, d1]), checkPrivilege_ok d2]
  simp only [bind, Except.bind, a3, b3, c3, d4, hr, e1, conclude]
  rfl

/-! ## The shapes that only set flags -/

theorem finishFlags_sets {s : State} (hi : s.Inv) (k : Bool) (len : Nat) (f : BitVec 4) :
    ∃ w, finishFlags k len f s = complete false w ∧ SetsFlags k f len s w := by
  refine ⟨_, rfl, (sameMachine_applyFlags k f s).trans (sameMachine_advance _ _), ?_, ?_, ?_, ?_⟩
  · have hpc : (applyFlags k f s).regs.pc = s.regs.pc := reg_applyFlags_ne (r := .pc) (by decide)
    have hc : (applyFlags k f s).icache = s.icache ∧ (applyFlags k f s).iqueue = s.iqueue ∧
        (applyFlags k f s).cacheCorrupt = s.cacheCorrupt := by cases k <;> exact ⟨rfl, rfl, rfl⟩
    exact ⟨congrArg (· + _) hpc, rfl, hc.1, hc.2.1, hc.2.2⟩
  · intro r _ h1 h2
    rw [reg_advance, if_neg h1]
    exact reg_applyFlags_ne h2
  · intro x; cases k <;> rfl
  · exact flagsAre_setFlags hi.2.1 f k

theorem compareShape_next {cur t1 t2 : OType} {src1 src2 : Operand} {s : State} {a b : Value}
    {f : OType → Value → Value → BitVec 4} (hi : s.Inv) (hs : SourceIs cur src1 s t1 a) (hs2 : SourceIs t1 src2 s t2 b) :
    ∃ w, compareShape cur src1 src2 f s = .next (complete false w) ∧
      SetsFlags (readsPsw src1 || readsPsw src2) (f t2 a b) (1 + src1.length + src2.length) s w := by
  obtain ⟨s1, rfl, s3⟩ := hs
  obtain ⟨u1, rfl, u3⟩ := hs2
  obtain ⟨w, h1, h2⟩ := finishFlags_sets hi (readsPsw src1 || readsPsw src2) (1 + src1.length + src2.length) (f _ a b)
  refine ⟨w, ?_, h2⟩
  simp only [compareShape, checkOperands_ok (os := [(.src, src1), (.src, src2)]) (s := s) (by simp [s1, u1])]
  simp only [bind, Except.bind, s3, u3, h1, conclude]

theorem testShape_next {cur t : OType} {src : Operand} {s : State} {v : Value} {f : Value → BitVec 4} (hi : s.Inv)
    (hs : SourceIs cur src s t v) :
    ∃ w, testShape cur src f s = .next (complete false w) ∧ SetsFlags (readsPsw src) (f v) (1 + src.length) s w := by
  obtain ⟨s1, rfl, s3⟩ := hs
  obtain ⟨w, h1, h2⟩ := finishFlags_sets hi (readsPsw src) (1 + src.length) (f v)
  refine ⟨w, ?_, h2⟩
  simp only [testShape, checkOperands_ok (os := [(.src, src)]) (s := s) (by simp [s1])]
  simp only [bind, Except.bind, s3, h1, conclude]

/-! ## The invariant, shape by shape -/

theorem inv_moveShape {cur : OType} {src dst : Operand} {f : OType → Value → Result} {s : State} (h : Held true s)
    {t : State} (e : moveShape cur src dst f s = .next t) : t.Inv := by
  refine ends_conclude (r := _) ?_ e
  exact (ends_checkOperands h.calm_false _).bind fun _ _ => (ends_checkPrivilege h.calm_false _).bind fun _ _ =>
    (h.readSource _ _).calm.bindWith fun _ s h => (h.resolve _).calm.bindWith fun _ s h => h.finish _ _ _ _ _

theorem inv_twoAddress {cur : OType} {src dst : Operand} {f : OType → Value → Value → Result} {s : State}
    (h : Held true s) {t : State} (e : twoAddress cur src dst f s = .next t) : t.Inv := by
  refine ends_conclude (r := _) ?_ e
  exact (ends_checkOperands h.calm_false _).bind fun _ _ => (ends_checkPrivilege h.calm_false _).bind fun _ _ =>
    (h.readSource _ _).calm.bindWith fun _ s h => (h.resolve _).calm.bindWith fun _ s h =>
    (h.readPlace _ _).calm.bindWith fun _ s h => h.finish _ _ _ _ _

theorem inv_threeAddress {cur : OType} {src1 src2 dst : Operand} {f : OType → OType → Value → Value → Result} {s : State}
    (h : Held true s) {t : State} (e : threeAddress cur src1 src2 dst f s = .next t) : t.Inv := by
  refine ends_conclude (r := _) ?_ e
  exact (ends_checkOperands h.calm_false _).bind fun _ _ => (ends_checkPrivilege h.calm_false _).bind fun _ _ =>
    (h.readSource _ _).calm.bindWith fun _ s h => (h.readSource _ _).calm.bindWith fun _ s h =>
    (h.resolve _).calm.bindWith fun _ s h => h.finish _ _ _ _ _

theorem inv_readModify {cur : OType} {dst : Operand} {f : OType → Value → Result} {s : State} (h : Held true s)
    {t : State} (e : readModify cur dst f s = .next t) : t.Inv := by
  refine ends_conclude (r := _) ?_ e
  exact (ends_checkOperands h.calm_false _).bind fun _ _ => (ends_checkPrivilege h.calm_false _).bind fun _ _ =>
    (h.resolve _).calm.bindWith fun _ s h => (h.readPlace _ _).calm.bindWith fun _ s h => h.finish _ _ _ _ _

theorem inv_writeOnly {cur : OType} {dst : Operand} {r : Result} {s : State} (h : Held true s) {t : State}
    (e : writeOnly cur dst r s = .next t) : t.Inv := by
  refine ends_conclude (r := _) ?_ e
  exact (ends_checkOperands h.calm_false _).bind fun _ _ => (ends_checkPrivilege h.calm_false _).bind fun _ _ =>
    (h.resolve _).calm.bindWith fun _ s h => h.finish _ _ _ _ _

theorem inv_compareShape {cur : OType} {src1 src2 : Operand} {f : OType → Value → Value → BitVec 4} {s : State}
    (h : Held true s) {t : State} (e : compareShape cur src1 src2 f s = .next t) : t.Inv := by
  refine ends_conclude (r := _) ?_ e
  exact (ends_checkOperands h.calm_false _).bind fun _ _ => (h.readSource _ _).calm.bindWith fun _ s h =>
    (h.readSource _ _).calm.bindWith fun _ s h => h.finishFlags _ _ _

theorem inv_testShape {cur : OType} {src : Operand} {f : Value → BitVec 4} {s : State} (h : Held true s) {t : State}
    (e : testShape cur src f s = .next t) : t.Inv := by
  refine ends_conclude (r := _) ?_ e
  exact (ends_checkOperands h.calm_false _).bind fun _ _ => (h.readSource _ _).calm.bindWith fun _ s h =>
    h.finishFlags _ _ _

theorem inv_extractShape {cur : OType} {width offset src dst : Operand} {s : State} (h : Held true s) {t : State}
    (e : extractShape cur width offset src dst s = .next t) : t.Inv := by
  refine ends_conclude (r := _) ?_ e
  exact (ends_checkOperands h.calm_false _).bind fun _ _ => (ends_checkPrivilege h.calm_false _).bind fun _ _ =>
    (h.readSource _ _).calm.bindWith fun _ s h => (h.readSource _ _).calm.bindWith fun _ s h =>
    (h.readSource _ _).calm.bindWith fun _ s h => (h.resolve _).calm.bindWith fun _ s h => h.finish _ _ _ _ _

theorem inv_insertShape {cur : OType} {width offset src dst : Operand} {s : State} (h : Held true s) {t : State}
    (e : insertShape cur width offset src dst s = .next t) : t.Inv := by
  refine ends_conclude (r := _) ?_ e
  exact (ends_checkOperands h.calm_false _).bind fun _ _ => (ends_checkPrivilege h.calm_false _).bind fun _ _ =>
    (h.readSource _ _).calm.bindWith fun _ s h => (h.readSource _ _).calm.bindWith fun _ s h =>
    (h.readSource _ _).calm.bindWith fun _ s h => (h.resolve _).calm.bindWith fun _ s h =>
    (h.readPlace _ _).calm.bindWith fun _ s h => h.finish _ _ _ _ _

end Sys2Proof.Machine
end

