-- ==== Sys2Proof/Laws/Switch.lean ====
section
/-! SUPPORT. What the pieces of the microsequences answer in a plain state: the bounds test, the push of a context, the
tables of a gate, the load of a process. -/

namespace Sys2Proof.Machine

/-! ## Gates -/

/-- The bounds test passes where SP is within the bounds of the PCB (46_operating_system R472). -/
theorem checkBounds_plain {s : State} (hp : Plain s) (ha : Aligned s.regs.pcbp)
    (lo : wordAt s (s.regs.pcbp + 12) ≤ s.regs.sp) (hi : s.regs.sp < wordAt s (s.regs.pcbp + 16)) :
    checkBounds s = .ok { s with kernelForced := false } := by
  have l1 : load .gatePcb (s.regs.pcbp + 12) (forceKernel true s) =
      .ok (wordAt s (s.regs.pcbp + 12), forceKernel true s) :=
    load_plain (s := forceKernel true s) hp (ha.add (k := 12) rfl) _
  have l2 : load .gatePcb (s.regs.pcbp + 16) (forceKernel true s) =
      .ok (wordAt s (s.regs.pcbp + 16), forceKernel true s) :=
    load_plain (s := forceKernel true s) hp (ha.add (k := 16) rfl) _
  have h1 : s.regs.sp.ult (wordAt s (s.regs.pcbp + 12)) = false := by
    simp only [BitVec.ult, decide_eq_false_iff_not, Nat.not_lt]; exact lo
  have h2 : (wordAt s (s.regs.pcbp + 16)).ule s.regs.sp = false := by
    simp only [BitVec.ule, decide_eq_false_iff_not, Nat.not_le]; exact hi
  simp only [checkBounds, forceKernel_regs, l1, l2, bind, Except.bind, h1, h2, Bool.false_eq_true, if_false]
  rfl

/-- It raises StackBound, at kernel level, where SP is not (46_operating_system R472). -/
theorem checkBounds_outside {s : State} (hp : Plain s) (ha : Aligned s.regs.pcbp)
    (h : s.regs.sp < wordAt s (s.regs.pcbp + 12) ∨ wordAt s (s.regs.pcbp + 16) ≤ s.regs.sp) :
    checkBounds s = .error (.stackBound, { s with kernelForced := true }) := by
  have l1 : load .gatePcb (s.regs.pcbp + 12) (forceKernel true s) =
      .ok (wordAt s (s.regs.pcbp + 12), forceKernel true s) :=
    load_plain (s := forceKernel true s) hp (ha.add (k := 12) rfl) _
  have l2 : load .gatePcb (s.regs.pcbp + 16) (forceKernel true s) =
      .ok (wordAt s (s.regs.pcbp + 16), forceKernel true s) :=
    load_plain (s := forceKernel true s) hp (ha.add (k := 16) rfl) _
  simp only [checkBounds, forceKernel_regs, l1, l2, bind, Except.bind]
  by_cases h1 : s.regs.sp.ult (wordAt s (s.regs.pcbp + 12)) = true
  · exact if_pos h1
  · refine (if_neg h1).trans (if_pos ?_)
    rcases h with h | h
    · exact absurd (decide_eq_true h) h1
    · exact decide_eq_true h

/-- A context pushed: two words stored, the PSW replaced, SP as before (46_operating_system R472, 60_exceptions R520). -/
theorem pushContext_plain {s : State} (hp : Plain s) (ha : Aligned s.regs.sp) (pc : Word) (image : Word → Word)
    {m : Memory} (hm : m = writeData (writeData s.mem .word s.regs.sp pc) .word (s.regs.sp + 4)
      (image s.regs.psw &&& maskPsw)) :
    pushContext pc image s = .ok (setPsw (image s.regs.psw) { s with mem := m }) := by
  have ha4 : Aligned (s.regs.sp + 4) := ha.add (k := 4) rfl
  have h1 := store_plain hp ha .stackFault pc
  have h2 := store_plain (s := setPsw (image s.regs.psw) { s with mem := writeData s.mem .word s.regs.sp pc }) hp ha4
    .stackFault (image s.regs.psw &&& maskPsw)
  simp only [pushContext, h1, bind, Except.bind]
  rw [hm]
  exact h2

/-- The tables of a gate: the new PSW and PC, SP past the context (46_operating_system R473). -/
theorem gateMechanism_plain {s : State} (hp : Plain s) {i j : Word} (hi : Aligned i) (hj : Aligned j)
    (ht : Aligned (wordAt s i)) (e : Exn) :
    gateMechanism i j e s = .ok (forceKernel false (setReg .sp (s.regs.sp + 8)
      (setPsw (withCodes 7 true 3 (withR (pswR s.regs.psw) (withIpl (pswIpl s.regs.psw) (withPm (pswCm s.regs.psw)
        (wordAt s (wordAt s i + j)))))) (setReg .pc (wordAt s (wordAt s i + j + 4)) s)))) := by
  have ht2 : Aligned (wordAt s i + j) := ht.add hj
  have l1 : load e i (forceKernel true s) = .ok (wordAt s i, forceKernel true s) := load_plain (s := forceKernel true s) hp hi _
  have l2 : load e (wordAt s i + j) (forceKernel true s) =
      .ok (wordAt s (wordAt s i + j), forceKernel true s) :=
    load_plain (s := forceKernel true s) hp ht2 _
  have l3 : load e (wordAt s i + j + 4) (forceKernel true s) =
      .ok (wordAt s (wordAt s i + j + 4), forceKernel true s) :=
    load_plain (s := forceKernel true s) hp (ht2.add (k := 4) rfl) _
  simp only [gateMechanism, l1, l2, l3, bind, Except.bind]
  rfl

/-! ## The load of a process -/

/-- PCBP pushed on the interrupt stack (10_state R56). -/
theorem pushPcbp_plain {s : State} (hp : Plain s) (ha : Aligned s.regs.isp) :
    pushPcbp s = .ok (setReg .isp (s.regs.isp + 4)
      { s with mem := writeData s.mem .word s.regs.isp s.regs.pcbp }) := by
  simp only [pushPcbp, store_plain hp ha, bind, Except.bind]

theorem loadImage_bits (image old : Word) :
    pswI (loadImage image old &&& maskPsw) = pswI image ∧ pswCfd (loadImage image old &&& maskPsw) = pswCfd image ∧
      pswCfd (clearI (loadImage image old &&& maskPsw) &&& maskPsw) = pswCfd image := by
  simp [pswI, pswCfd, clearI, loadImage, withCodes, withR, merge, maskI, maskCodes, maskR, maskPsw]

theorem clearI_of_clear {w : Word} (h : pswI w = false) : clearI w = w := by
  apply BitVec.eq_of_getLsbD_eq
  intro i hi
  by_cases h7 : i = 7
  · subst h7; simpa [clearI, merge, maskI, pswI] using h
  · have : maskI.getLsbD i = false := by
      have : ∀ i < 32, i ≠ 7 → maskI.getLsbD i = false := by decide
      exact this i hi h7
    simp only [clearI, merge, BitVec.getLsbD_or, BitVec.getLsbD_and, BitVec.getLsbD_not, hi, this]
    simp

/-- XSWITCH_TWO: PSW, PC and SP from the PCB; R, ISC and ET stay, TM and I become 0; PCBP moves past the initial context
if the image has I set; the cache is flushed unless CFD is set (46_operating_system R477). -/
theorem xswitchTwo_plain {s : State} (hp : Plain s) {t : Word} (ht : Aligned t) (e : Exn) :
    ∃ w, xswitchTwo t e s = .ok w ∧
      w.regs.psw = clearI (loadImage (wordAt s t) s.regs.psw &&& maskPsw) &&& maskPsw ∧
      w.regs.pc = wordAt s (t + 4) ∧ w.regs.sp = wordAt s (t + 8) ∧ w.regs.pcbp = processPcbp t (wordAt s t) ∧
      OnlyRegs [.psw, .pc, .sp, .pcbp] s w ∧ w.mem = s.mem ∧ w.discont = s.discont ∧ Flushed (wordAt s t) s w ∧
      SameMachine s w := by
  obtain ⟨b1, b2, b3⟩ := loadImage_bits (wordAt s t) s.regs.psw
  have l1 : load e t (setReg .pcbp t s) = .ok (wordAt s t, setReg .pcbp t s) := load_plain (s := setReg .pcbp t s) hp ht _
  have l2 : load e (t + 4) (setPsw (loadImage (wordAt s t) s.regs.psw) (setReg .pcbp t s)) =
      .ok (wordAt s (t + 4), setPsw (loadImage (wordAt s t) s.regs.psw) (setReg .pcbp t s)) :=
    load_plain (s := setPsw _ (setReg .pcbp t s)) hp (ht.add (k := 4) rfl) _
  have l3 : load e (t + 8) (setReg .pc (wordAt s (t + 4)) (setPsw (loadImage (wordAt s t) s.regs.psw)
      (setReg .pcbp t s))) = .ok (wordAt s (t + 8), setReg .pc (wordAt s (t + 4))
        (setPsw (loadImage (wordAt s t) s.regs.psw) (setReg .pcbp t s))) :=
    load_plain (s := setReg .pc _ (setPsw _ (setReg .pcbp t s))) hp (ht.add (k := 8) rfl) _
  refine ⟨_, by
    simp only [xswitchTwo, l1, bind, Except.bind]
    rw [show (setReg .pcbp t s).regs.psw = s.regs.psw from rfl]
    rw [show (setPsw (loadImage (wordAt s t) s.regs.psw) (setReg .pcbp t s)).regs.pcbp = t from rfl, l2]
    simp only []
    rw [show (setReg .pc (wordAt s (t + 4)) (setPsw (loadImage (wordAt s t) s.regs.psw)
      (setReg .pcbp t s))).regs.pcbp = t from rfl, l3], ?_⟩
  generalize hx : setReg .sp (wordAt s (t + 8)) (setReg .pc (wordAt s (t + 4))
      (setPsw (loadImage (wordAt s t) s.regs.psw) (setReg .pcbp t s))) = x
  have x1 : x.regs.psw = loadImage (wordAt s t) s.regs.psw &&& maskPsw := by rw [← hx]; rfl
  have x2 : x.regs.pc = wordAt s (t + 4) ∧ x.regs.sp = wordAt s (t + 8) ∧ x.regs.pcbp = t := by
    rw [← hx]; exact ⟨rfl, rfl, rfl⟩
  have x3 : OnlyRegs [.psw, .pc, .sp, .pcbp] s x := by
    intro r hr
    simp only [List.mem_cons, List.not_mem_nil, or_false, not_or] at hr
    rw [← hx, reg_setReg_ne hr.2.2.1, reg_setReg_ne hr.2.1, setPsw, reg_setReg_ne hr.1, reg_setReg_ne hr.2.2.2]
  have x4 : x.mem = s.mem ∧ x.discont = s.discont ∧ x.icache = s.icache ∧ x.cacheCorrupt = s.cacheCorrupt := by
    rw [← hx]; exact ⟨rfl, rfl, rfl, rfl⟩
  have x5 : SameMachine s x := by
    rw [← hx]
    exact (sameMachine_setReg _ _ _).trans ((sameMachine_setReg .psw _ _).trans ((sameMachine_setReg _ _ _).trans
      (sameMachine_setReg _ _ _)))
  clear hx l1 l2 l3
  have main : ∀ y : State, pswCfd y.regs.psw = pswCfd (wordAt s t) → SameMachine s y → y.mem = s.mem →
      y.discont = s.discont → y.icache = s.icache → y.cacheCorrupt = s.cacheCorrupt →
      let w := if pswCfd y.regs.psw = true then y else flushCache y
      w.regs = y.regs ∧ w.mem = s.mem ∧ w.discont = s.discont ∧ Flushed (wordAt s t) s w ∧ SameMachine s w := by
    intro y h0 h1 h2 h3 h4 h5
    by_cases h : pswCfd (wordAt s t) = true
    · simp only [h0, h, if_true, Flushed]
      exact ⟨trivial, h2, h3, ⟨h4, h5⟩, h1⟩
    · simp only [h0, h, Flushed]
      exact ⟨rfl, h2, h3, ⟨rfl, rfl⟩, ⟨h1.1, h1.2, h1.3, h1.4, h1.5, h1.6, h1.7, h1.8, h1.9, h1.10, h1.11, h1.12⟩⟩
  by_cases hI : pswI (wordAt s t) = true
  · have hx : pswI x.regs.psw = true := by rw [x1, b1, hI]
    rw [if_pos (c := pswI x.regs.psw = true) hx]
    obtain ⟨m1, m2, m3, m4, m5⟩ := main (setReg .pcbp (x.regs.pcbp + 12) (setPsw (clearI x.regs.psw) x))
      (by rw [← b3, ← x1]; rfl)
      (x5.trans ((sameMachine_setReg .psw _ _).trans (sameMachine_setReg _ _ _))) x4.1 x4.2.1 x4.2.2.1 x4.2.2.2
    refine ⟨?_, ?_, ?_, ?_, ?_, m2, m3, m4, m5⟩
    · rw [m1, ← x1]; rfl
    · rw [m1, ← x2.1]; rfl
    · rw [m1, ← x2.2.1]; rfl
    · rw [m1, processPcbp, if_pos hI, ← x2.2.2]; rfl
    · intro r hr
      have hr' := hr
      simp only [List.mem_cons, List.not_mem_nil, or_false, not_or] at hr'
      rw [reg, m1, ← x3 r hr]
      show reg (setReg .pcbp _ (setReg .psw _ x)) r = _
      rw [reg_setReg_ne hr'.2.2.2, reg_setReg_ne hr'.1]
  · have hx : ¬pswI x.regs.psw = true := by rw [x1, b1]; exact hI
    rw [if_neg (c := pswI x.regs.psw = true) hx]
    obtain ⟨m1, m2, m3, m4, m5⟩ := main x (by rw [← b2, ← x1]) x5 x4.1 x4.2.1 x4.2.2.1 x4.2.2.2
    refine ⟨?_, ?_, ?_, ?_, ?_, m2, m3, m4, m5⟩
    · rw [m1, x1, clearI_of_clear (by rw [b1]; simpa using hI), BitVec.and_assoc, BitVec.and_self]
    · rw [m1, ← x2.1]
    · rw [m1, ← x2.2.1]
    · rw [m1, processPcbp, if_neg hI, ← x2.2.2]
    · intro r hr
      rw [reg, m1, ← x3 r hr]; rfl

end Sys2Proof.Machine
end

