-- ==== Sys2Proof/Tests/Slice0.lean ====
section
/-! SUPPORT. The model's own tests. The expected results are the spec's: the words of 30_encoding R128 and R155 to R158 and
of the opcode table, the vectors of 95_test_vectors (their numbers are in the names of the tests), the worked examples of
46_operating_system R475, R483 and 60_exceptions R525, R537. At the end, for every statement with hypotheses, a state and
operands that meet them. -/

namespace Sys2Proof.Tests

open Sys2Proof Sys2Proof.Machine

/-! ## Helpers -/

/-- An operand without an expanded type. -/
abbrev op (m : Mode) : Operand := { mode := m }

/-- A memory with these words, and these bytes from an address up. -/
def image (words : List (Word × Word)) (a : Word) (code : List Byte) : Memory :=
  code.zipIdx.foldl (fun m e => poke m (a + BitVec.ofNat 32 e.2) e.1)
    (words.foldl (fun m e => writeData m .word e.1 e.2) [])

/-- A machine about to run the code at pc, with no environment. -/
def start (psw pc : Word) (regs : List (Reg × Word)) (words : List (Word × Word)) (code : List Byte) : State :=
  { State.reset with
    regs := { regs.foldl (fun g e => writeReg e.1 e.2 g) Regs.reset with psw := psw, pc := pc }
    mem := image words pc code }

/-- An outcome is a next state with these registers and these words. -/
def holds (o : Outcome) (regs : List (Reg × Word)) (words : List (Word × Word)) : Bool :=
  match o with
  | .next t => regs.all (fun e => reg t e.1 == e.2) && words.all (fun e => wordAt t e.1 == e.2)
  | _ => false

/-- One step from s ends with these registers, these words and these N, Z, V, C. -/
def ends (s : State) (regs : List (Reg × Word)) (words : List (Word × Word)) (nzvc : BitVec 4) : Bool :=
  match step s with
  | .next t => holds (.next t) regs words && flags t == nzvc
  | _ => false

/-- One step from s is a next state of which p holds. -/
def stepHas (s : State) (p : State → Bool) : Bool :=
  match step s with
  | .next t => p t
  | _ => false

/-- The bytes decode to the instruction, and all of them. -/
def decodes (b : List Byte) (i : Instr) : Bool :=
  match decode (b.map some) with
  | .ok (j, rest) => decide (j = i) && rest.isEmpty
  | .error _ => false

/-- The bytes are refused with this error. -/
def rejects (b : List Byte) (e : DecodeError) : Bool :=
  match decode (b.map some) with
  | .ok _ => false
  | .error x => decide (x = e)

/-! ## Ill-formed instructions (30_encoding R128, R145, R146, R150) -/

theorem test_wf_register_pc : (Instr.movw (op (.register .pc)) (op (.register .r0))).wellFormed = false := by decide
theorem test_wf_deferred_psw : (Instr.movw (op (.deferred .psw)) (op (.register .r0))).wellFormed = false := by decide
theorem test_wf_deferred_pc : (Instr.movw (op (.deferred .pc)) (op (.register .r0))).wellFormed = false := by decide
theorem test_wf_fp_offset_15 : (Instr.incw (op (.fpOffset 15))).wellFormed = false := by decide
theorem test_wf_ap_offset_15 : (Instr.incw (op (.apOffset 15))).wellFormed = false := by decide
theorem test_wf_displacement_psw : (Instr.incw (op (.displacement (.byte 4) .psw))).wellFormed = false := by decide
theorem test_wf_displacement_deferred_psw : (Instr.incw (op (.displacementDeferred (.byte 4) .psw))).wellFormed = false := by
  decide
theorem test_wf_literal_destination : (Instr.movw (op (.register .r0)) (op (.literal 1))).wellFormed = false := by decide
theorem test_wf_negative_literal_destination : (Instr.clrw (op (.negLiteral 15))).wellFormed = false := by decide
theorem test_wf_immediate_destination : (Instr.popw (op (.immediate (.word 0)))).wellFormed = false := by decide
theorem test_wf_register_address : (Instr.movaw (op (.register .r0)) (op (.register .r1))).wellFormed = false := by decide
theorem test_wf_literal_address : (Instr.swapwi (op (.literal 1))).wellFormed = false := by decide
theorem test_wf_register_address_plain : (Instr.jsb (op (.register .r0))).wellFormed = false := by decide
theorem test_wf_typed_push : (Instr.pushw { ty := some .sword, mode := .register .r0 }).wellFormed = false := by decide
theorem test_wf_typed_pop : (Instr.popw { ty := some .sword, mode := .register .r0 }).wellFormed = false := by decide
theorem test_wf_typed_call : (Instr.jsb { ty := some .sword, mode := .absolute 0 }).wellFormed = false := by decide
theorem test_wf_save_memory : (Instr.save (op (.absolute 0))).wellFormed = false := by decide
theorem test_wf_save_ap : (Instr.save (op (.register .ap))).wellFormed = false := by decide
theorem test_wf_typed_restore : (Instr.restore { ty := some .sword, mode := .register .r3 }).wellFormed = false := by decide

/-! ## Bytes that are no instruction (30_encoding R144, R145, R150, R158; 95_test_vectors B9.1 to B9.13) -/

theorem test_B9_1_unassigned : rejects [0x00] .illegalOpcode = true := by decide
theorem test_B9_3_unassigned_second : rejects [0x30, 0x00] .illegalOpcode = true := by decide
theorem test_B9_4_unassigned_second : rejects [0x30, 0x70] .illegalOpcode = true := by decide
theorem test_B9_6_reserved_type : rejects [0x84, 0xE1, 0x40, 0x41] .reservedDataType = true := by decide
theorem test_B9_12_type_after_type : rejects [0x84, 0xE4, 0xE4, 0x40, 0x41] .invalidDescriptor = true := by decide
theorem test_B9_13_left_to_right : rejects [0x84, 0xE5, 0x40, 0x01] .reservedDataType = true := by decide
theorem test_end_of_stream : rejects [0x84, 0x40] .fetchFault = true := by decide

/-! ## Decoding: a word written out for every instruction (30_encoding R128, R142, R155 to R158; the opcode table) -/

theorem test_decode_coprocessor_1 : ([
    ([0x02, 0x78, 0x56, 0x34, 0x12, 0x7F, 0x00, 0x30, 0x00, 0x00], .spoprd 0x12345678 (op (.absolute 0x3000))),
    ([0x03, 0x78, 0x56, 0x34, 0x12, 0xA5, 0x34, 0x12, 0x93, 0x01, 0x00, 0x00, 0x80],
      .spopd2 0x12345678 (op (.displacement (.half 0x1234) .r5)) (op (.displacementDeferred (.word 0x80000001) .r3))),
    ([0x06, 0x78, 0x56, 0x34, 0x12, 0x7F, 0x00, 0x30, 0x00, 0x00], .spoprt 0x12345678 (op (.absolute 0x3000))),
    ([0x07, 0x78, 0x56, 0x34, 0x12, 0xA5, 0x34, 0x12, 0x93, 0x01, 0x00, 0x00, 0x80],
      .spopt2 0x12345678 (op (.displacement (.half 0x1234) .r5)) (op (.displacementDeferred (.word 0x80000001) .r3))),
    ([0x13, 0x78, 0x56, 0x34, 0x12, 0xA5, 0x34, 0x12],
      .spopwd 0x12345678 (op (.displacement (.half 0x1234) .r5))),
    ([0x17, 0x78, 0x56, 0x34, 0x12, 0x93, 0x01, 0x00, 0x00, 0x80],
      .spopwt 0x12345678 (op (.displacementDeferred (.word 0x80000001) .r3))),
    ([0x22, 0x78, 0x56, 0x34, 0x12, 0x7E], .spoprs 0x12345678 (op (.apOffset 14))),
    ([0x23, 0x78, 0x56, 0x34, 0x12, 0x54, 0x7F, 0x00, 0x30, 0x00, 0x00],
      .spops2 0x12345678 (op (.deferred .r4)) (op (.absolute 0x3000))),
    ([0x32, 0x78, 0x56, 0x34, 0x12], .spop 0x12345678),
    ([0x33, 0x78, 0x56, 0x34, 0x12, 0x93, 0x01, 0x00, 0x00, 0x80],
      .spopws 0x12345678 (op (.displacementDeferred (.word 0x80000001) .r3)))] : List (List Byte × Instr)).all (fun e => decodes e.1 e.2) = true := by decide

theorem test_decode_data_transfer_1 : ([
    ([0x04, 0x7E, 0xE2, 0xCA, 0xFC],
      .movaw (op (.apOffset 14)) { ty := some .uhalf, mode := .displacement (.byte 0xFC) .ap }),
    ([0x1C, 0x54], .swapwi (op (.deferred .r4))),
    ([0x1E, 0x7F, 0x00, 0x30, 0x00, 0x00], .swaphi (op (.absolute 0x3000))),
    ([0x1F, 0xA5, 0x34, 0x12], .swapbi (op (.displacement (.half 0x1234) .r5))),
    ([0x84, 0xB4, 0xFE, 0xFF, 0xD6, 0x08],
      .movw (op (.displacementDeferred (.half 0xFFFE) .r4)) (op (.displacementDeferred (.byte 8) .r6))),
    ([0x86, 0x59, 0x48], .movh (op (.deferred .fp)) (op (.register .r8))),
    ([0x87, 0x05, 0x6C], .movb (op (.literal 5)) (op (.fpOffset 12))),
    ([0x88, 0x5F, 0x34, 0x12, 0x7F, 0x00, 0x30, 0x00, 0x00],
      .mcomw (op (.immediate (.half 0x1234))) (op (.absolute 0x3000))),
    ([0x8A, 0xE7, 0x42, 0xD6, 0x08],
      .mcomh { ty := some .sbyte, mode := .register .r2 } (op (.displacementDeferred (.byte 8) .r6))),
    ([0x8B, 0x6F, 0x80, 0x48], .mcomb (op (.immediate (.byte 0x80))) (op (.register .r8))),
    ([0x8C, 0xB4, 0xFE, 0xFF, 0x6C], .mnegw (op (.displacementDeferred (.half 0xFFFE) .r4)) (op (.fpOffset 12))),
    ([0x8E, 0x59, 0x7F, 0x00, 0x30, 0x00, 0x00], .mnegh (op (.deferred .fp)) (op (.absolute 0x3000))),
    ([0x8F, 0x05, 0xD6, 0x08], .mnegb (op (.literal 5)) (op (.displacementDeferred (.byte 8) .r6))),
    ([0xC8, 0x4F, 0x01, 0x02, 0x03, 0x04, 0x59, 0x41, 0xE2, 0xCA, 0xFC],
      .insfw (op (.immediate (.word 0x04030201))) (op (.deferred .fp)) (op (.register .r1)) { ty := some .uhalf, mode := .displacement (.byte 0xFC) .ap }),
    ([0xCA, 0xC3, 0x04, 0x5F, 0x34, 0x12, 0xF3, 0x57],
      .insfh (op (.displacement (.byte 4) .r3)) (op (.immediate (.half 0x1234))) (op (.negLiteral 3)) (op (.deferred .r7))),
    ([0xCB, 0x76, 0x6F, 0x80, 0xEF, 0x78, 0x56, 0x34, 0x12, 0xE2, 0xCA, 0xFC],
      .insfb (op (.apOffset 6)) (op (.immediate (.byte 0x80))) (op (.absoluteDeferred 0x12345678)) { ty := some .uhalf, mode := .displacement (.byte 0xFC) .ap }),
    ([0xCC, 0x4F, 0x01, 0x02, 0x03, 0x04, 0x59, 0x41, 0x57],
      .extfw (op (.immediate (.word 0x04030201))) (op (.deferred .fp)) (op (.register .r1)) (op (.deferred .r7))),
    ([0xCE, 0xC3, 0x04, 0x5F, 0x34, 0x12, 0xF3, 0xE2, 0xCA, 0xFC],
      .extfh (op (.displacement (.byte 4) .r3)) (op (.immediate (.half 0x1234))) (op (.negLiteral 3)) { ty := some .uhalf, mode := .displacement (.byte 0xFC) .ap }),
    ([0xCF, 0x76, 0x6F, 0x80, 0xEF, 0x78, 0x56, 0x34, 0x12, 0x57],
      .extfb (op (.apOffset 6)) (op (.immediate (.byte 0x80))) (op (.absoluteDeferred 0x12345678)) (op (.deferred .r7))),
    ([0x30, 0x09], .mverno)] : List (List Byte × Instr)).all (fun e => decodes e.1 e.2) = true := by decide

theorem test_decode_data_transfer_2 : ([
    ([0x30, 0x19], .movblw),
    ([0x30, 0x1F], .strend),
    ([0x30, 0x35], .strcpy)] : List (List Byte × Instr)).all (fun e => decodes e.1 e.2) = true := by decide

theorem test_decode_program_control_1 : ([
    ([0x08], .ret),
    ([0x10, 0x49], .save (op (.register .fp))),
    ([0x18, 0x43], .restore (op (.register .r3))),
    ([0x24, 0xA5, 0x34, 0x12], .jmp (op (.displacement (.half 0x1234) .r5))),
    ([0x2C, 0x7F, 0x00, 0x30, 0x00, 0x00, 0xA5, 0x34, 0x12],
      .call (op (.absolute 0x3000)) (op (.displacement (.half 0x1234) .r5))),
    ([0x34, 0x7E], .jsb (op (.apOffset 14))),
    ([0x36, 0x34, 0xF2], .bsbh 0xF234),
    ([0x37, 0xFC], .bsbb 0xFC),
    ([0x40], .rgeq),
    ([0x42, 0x34, 0xF2], .bgeh 0xF234),
    ([0x43, 0xFC], .bgeb 0xFC),
    ([0x44], .rgtr),
    ([0x46, 0x34, 0xF2], .bgh 0xF234),
    ([0x47, 0xFC], .bgb 0xFC),
    ([0x48], .rlss),
    ([0x4A, 0x34, 0xF2], .blh 0xF234),
    ([0x4B, 0xFC], .blb 0xFC),
    ([0x4C], .rleq),
    ([0x4E, 0x34, 0xF2], .bleh 0xF234),
    ([0x4F, 0xFC], .bleb 0xFC)] : List (List Byte × Instr)).all (fun e => decodes e.1 e.2) = true := by decide

theorem test_decode_program_control_2 : ([
    ([0x50], .rcc),
    ([0x52, 0x34, 0xF2], .bcch 0xF234),
    ([0x53, 0xFC], .bccb 0xFC),
    ([0x54], .rgtru),
    ([0x56, 0x34, 0xF2], .bguh 0xF234),
    ([0x57, 0xFC], .bgub 0xFC),
    ([0x58], .rcs),
    ([0x5A, 0x34, 0xF2], .bcsh 0xF234),
    ([0x5B, 0xFC], .bcsb 0xFC),
    ([0x5C], .rlequ),
    ([0x5E, 0x34, 0xF2], .bleuh 0xF234),
    ([0x5F, 0xFC], .bleub 0xFC),
    ([0x60], .rvc),
    ([0x62, 0x34, 0xF2], .bvch 0xF234),
    ([0x63, 0xFC], .bvcb 0xFC),
    ([0x64], .rnequ),
    ([0x66, 0x34, 0xF2], .bneh66 0xF234),
    ([0x67, 0xFC], .bneb67 0xFC),
    ([0x68], .rvs),
    ([0x6A, 0x34, 0xF2], .bvsh 0xF234)] : List (List Byte × Instr)).all (fun e => decodes e.1 e.2) = true := by decide

theorem test_decode_program_control_3 : ([
    ([0x6B, 0xFC], .bvsb 0xFC),
    ([0x6C], .reqlu),
    ([0x6E, 0x34, 0xF2], .beh6e 0xF234),
    ([0x6F, 0xFC], .beb6f 0xFC),
    ([0x74], .rneq),
    ([0x76, 0x34, 0xF2], .bneh 0xF234),
    ([0x77, 0xFC], .bneb 0xFC),
    ([0x78], .rsb),
    ([0x7A, 0x34, 0xF2], .brh 0xF234),
    ([0x7B, 0xFC], .brb 0xFC),
    ([0x7C], .reql),
    ([0x7E, 0x34, 0xF2], .beh 0xF234),
    ([0x7F, 0xFC], .beb 0xFC)] : List (List Byte × Instr)).all (fun e => decodes e.1 e.2) = true := by decide

theorem test_decode_operating_system_1 : ([
    ([0x0C, 0x7E, 0x6C], .movtrw (op (.apOffset 14)) (op (.fpOffset 12))),
    ([0x2F], .wait),
    ([0x30, 0x0D], .enbvjmp),
    ([0x30, 0x13], .disvjmp),
    ([0x30, 0x2F], .intack),
    ([0x30, 0x45], .retg),
    ([0x30, 0x61], .gate),
    ([0x30, 0xAC], .callps),
    ([0x30, 0xC8], .retps)] : List (List Byte × Instr)).all (fun e => decodes e.1 e.2) = true := by decide

theorem test_decode_stack_misc_1 : ([
    ([0x14], .extop),
    ([0x20, 0x7F, 0x00, 0x30, 0x00, 0x00], .popw (op (.absolute 0x3000))),
    ([0x27], .cflush),
    ([0x2E], .bpt),
    ([0x70], .nop),
    ([0x72], .nop3),
    ([0x73], .nop2),
    ([0xA0, 0x4F, 0x01, 0x02, 0x03, 0x04], .pushw (op (.immediate (.word 0x04030201)))),
    ([0xE0, 0x93, 0x01, 0x00, 0x00, 0x80], .pushaw (op (.displacementDeferred (.word 0x80000001) .r3)))] : List (List Byte × Instr)).all (fun e => decodes e.1 e.2) = true := by decide

theorem test_decode_logical_1 : ([
    ([0x28, 0x59], .tstw (op (.deferred .fp))),
    ([0x2A, 0x41], .tsth (op (.register .r1))),
    ([0x2B, 0x05], .tstb (op (.literal 5))),
    ([0x38, 0x76, 0x6F, 0x80], .bitw (op (.apOffset 6)) (op (.immediate (.byte 0x80)))),
    ([0x3A, 0xEF, 0x78, 0x56, 0x34, 0x12, 0xB4, 0xFE, 0xFF],
      .bith (op (.absoluteDeferred 0x12345678)) (op (.displacementDeferred (.half 0xFFFE) .r4))),
    ([0x3B, 0x4F, 0x01, 0x02, 0x03, 0x04, 0x59],
      .bitb (op (.immediate (.word 0x04030201))) (op (.deferred .fp))),
    ([0x3C, 0x41, 0x05], .cmpw (op (.register .r1)) (op (.literal 5))),
    ([0x3E, 0xC3, 0x04, 0x5F, 0x34, 0x12],
      .cmph (op (.displacement (.byte 4) .r3)) (op (.immediate (.half 0x1234)))),
    ([0x3F, 0xF3, 0xE7, 0x42], .cmpb (op (.negLiteral 3)) { ty := some .sbyte, mode := .register .r2 }),
    ([0x80, 0x6C], .clrw (op (.fpOffset 12))),
    ([0x82, 0x8C, 0x10, 0x20, 0x30, 0x40], .clrh (op (.displacement (.word 0x40302010) .sp))),
    ([0x83, 0x7F, 0x00, 0x30, 0x00, 0x00], .clrb (op (.absolute 0x3000))),
    ([0xB0, 0x4F, 0x01, 0x02, 0x03, 0x04, 0x4B],
      .orw2 (op (.immediate (.word 0x04030201))) (op (.register .psw))),
    ([0xB2, 0x41, 0x57], .orh2 (op (.register .r1)) (op (.deferred .r7))),
    ([0xB3, 0xC3, 0x04, 0x8C, 0x10, 0x20, 0x30, 0x40],
      .orb2 (op (.displacement (.byte 4) .r3)) (op (.displacement (.word 0x40302010) .sp))),
    ([0xB4, 0xF3, 0xE2, 0xCA, 0xFC],
      .xorw2 (op (.negLiteral 3)) { ty := some .uhalf, mode := .displacement (.byte 0xFC) .ap }),
    ([0xB6, 0x76, 0x4B], .xorh2 (op (.apOffset 6)) (op (.register .psw))),
    ([0xB7, 0xEF, 0x78, 0x56, 0x34, 0x12, 0x57],
      .xorb2 (op (.absoluteDeferred 0x12345678)) (op (.deferred .r7))),
    ([0xB8, 0x4F, 0x01, 0x02, 0x03, 0x04, 0x8C, 0x10, 0x20, 0x30, 0x40],
      .andw2 (op (.immediate (.word 0x04030201))) (op (.displacement (.word 0x40302010) .sp))),
    ([0xBA, 0x41, 0xE2, 0xCA, 0xFC],
      .andh2 (op (.register .r1)) { ty := some .uhalf, mode := .displacement (.byte 0xFC) .ap })] : List (List Byte × Instr)).all (fun e => decodes e.1 e.2) = true := by decide

theorem test_decode_logical_2 : ([
    ([0xBB, 0xC3, 0x04, 0x4B], .andb2 (op (.displacement (.byte 4) .r3)) (op (.register .psw))),
    ([0xD0, 0x4F, 0x01, 0x02, 0x03, 0x04, 0x59, 0x7F, 0x00, 0x30, 0x00, 0x00],
      .llsw3 (op (.immediate (.word 0x04030201))) (op (.deferred .fp)) (op (.absolute 0x3000))),
    ([0xD2, 0x05, 0xC3, 0x04, 0x4B],
      .llsh3 (op (.literal 5)) (op (.displacement (.byte 4) .r3)) (op (.register .psw))),
    ([0xD3, 0xF3, 0xE7, 0x42, 0x6C],
      .llsb3 (op (.negLiteral 3)) { ty := some .sbyte, mode := .register .r2 } (op (.fpOffset 12))),
    ([0xD4, 0x6F, 0x80, 0xEF, 0x78, 0x56, 0x34, 0x12, 0xE2, 0xCA, 0xFC],
      .lrsw3 (op (.immediate (.byte 0x80))) (op (.absoluteDeferred 0x12345678)) { ty := some .uhalf, mode := .displacement (.byte 0xFC) .ap }),
    ([0xD8, 0x4F, 0x01, 0x02, 0x03, 0x04, 0x59, 0x48],
      .rotw (op (.immediate (.word 0x04030201))) (op (.deferred .fp)) (op (.register .r8))),
    ([0xF0, 0xC3, 0x04, 0x5F, 0x34, 0x12, 0x48],
      .orw3 (op (.displacement (.byte 4) .r3)) (op (.immediate (.half 0x1234))) (op (.register .r8))),
    ([0xF2, 0xE7, 0x42, 0x76, 0x8C, 0x10, 0x20, 0x30, 0x40],
      .orh3 { ty := some .sbyte, mode := .register .r2 } (op (.apOffset 6)) (op (.displacement (.word 0x40302010) .sp))),
    ([0xF3, 0xEF, 0x78, 0x56, 0x34, 0x12, 0xB4, 0xFE, 0xFF, 0xD6, 0x08],
      .orb3 (op (.absoluteDeferred 0x12345678)) (op (.displacementDeferred (.half 0xFFFE) .r4)) (op (.displacementDeferred (.byte 8) .r6))),
    ([0xF4, 0x59, 0x41, 0x57], .xorw3 (op (.deferred .fp)) (op (.register .r1)) (op (.deferred .r7))),
    ([0xF6, 0xC3, 0x04, 0x5F, 0x34, 0x12, 0x7F, 0x00, 0x30, 0x00, 0x00],
      .xorh3 (op (.displacement (.byte 4) .r3)) (op (.immediate (.half 0x1234))) (op (.absolute 0x3000))),
    ([0xF7, 0xE7, 0x42, 0x76, 0x4B],
      .xorb3 { ty := some .sbyte, mode := .register .r2 } (op (.apOffset 6)) (op (.register .psw))),
    ([0xF8, 0xEF, 0x78, 0x56, 0x34, 0x12, 0xB4, 0xFE, 0xFF, 0x6C],
      .andw3 (op (.absoluteDeferred 0x12345678)) (op (.displacementDeferred (.half 0xFFFE) .r4)) (op (.fpOffset 12))),
    ([0xFA, 0x59, 0x41, 0xE2, 0xCA, 0xFC],
      .andh3 (op (.deferred .fp)) (op (.register .r1)) { ty := some .uhalf, mode := .displacement (.byte 0xFC) .ap }),
    ([0xFB, 0xC3, 0x04, 0x5F, 0x34, 0x12, 0x48],
      .andb3 (op (.displacement (.byte 4) .r3)) (op (.immediate (.half 0x1234))) (op (.register .r8)))] : List (List Byte × Instr)).all (fun e => decodes e.1 e.2) = true := by decide

theorem test_decode_arithmetic_1 : ([
    ([0x90, 0x4B], .incw (op (.register .psw))),
    ([0x92, 0x48], .inch (op (.register .r8))),
    ([0x93, 0x57], .incb (op (.deferred .r7))),
    ([0x94, 0x6C], .decw (op (.fpOffset 12))),
    ([0x96, 0x8C, 0x10, 0x20, 0x30, 0x40], .dech (op (.displacement (.word 0x40302010) .sp))),
    ([0x97, 0x7F, 0x00, 0x30, 0x00, 0x00], .decb (op (.absolute 0x3000))),
    ([0x9C, 0xB4, 0xFE, 0xFF, 0xD6, 0x08],
      .addw2 (op (.displacementDeferred (.half 0xFFFE) .r4)) (op (.displacementDeferred (.byte 8) .r6))),
    ([0x9E, 0x59, 0x48], .addh2 (op (.deferred .fp)) (op (.register .r8))),
    ([0x9F, 0x05, 0x6C], .addb2 (op (.literal 5)) (op (.fpOffset 12))),
    ([0xA4, 0xF3, 0xE2, 0xCA, 0xFC],
      .modw2 (op (.negLiteral 3)) { ty := some .uhalf, mode := .displacement (.byte 0xFC) .ap }),
    ([0xA6, 0x76, 0x4B], .modh2 (op (.apOffset 6)) (op (.register .psw))),
    ([0xA7, 0xEF, 0x78, 0x56, 0x34, 0x12, 0x57],
      .modb2 (op (.absoluteDeferred 0x12345678)) (op (.deferred .r7))),
    ([0xA8, 0x4F, 0x01, 0x02, 0x03, 0x04, 0x8C, 0x10, 0x20, 0x30, 0x40],
      .mulw2 (op (.immediate (.word 0x04030201))) (op (.displacement (.word 0x40302010) .sp))),
    ([0xAA, 0x41, 0xE2, 0xCA, 0xFC],
      .mulh2 (op (.register .r1)) { ty := some .uhalf, mode := .displacement (.byte 0xFC) .ap }),
    ([0xAB, 0xC3, 0x04, 0x4B], .mulb2 (op (.displacement (.byte 4) .r3)) (op (.register .psw))),
    ([0xAC, 0xF3, 0x57], .divw2 (op (.negLiteral 3)) (op (.deferred .r7))),
    ([0xAE, 0x76, 0x8C, 0x10, 0x20, 0x30, 0x40],
      .divh2 (op (.apOffset 6)) (op (.displacement (.word 0x40302010) .sp))),
    ([0xAF, 0xEF, 0x78, 0x56, 0x34, 0x12, 0xE2, 0xCA, 0xFC],
      .divb2 (op (.absoluteDeferred 0x12345678)) { ty := some .uhalf, mode := .displacement (.byte 0xFC) .ap }),
    ([0xBC, 0xF3, 0x57], .subw2 (op (.negLiteral 3)) (op (.deferred .r7))),
    ([0xBE, 0x76, 0x8C, 0x10, 0x20, 0x30, 0x40],
      .subh2 (op (.apOffset 6)) (op (.displacement (.word 0x40302010) .sp)))] : List (List Byte × Instr)).all (fun e => decodes e.1 e.2) = true := by decide

theorem test_decode_arithmetic_2 : ([
    ([0xBF, 0xEF, 0x78, 0x56, 0x34, 0x12, 0xE2, 0xCA, 0xFC],
      .subb2 (op (.absoluteDeferred 0x12345678)) { ty := some .uhalf, mode := .displacement (.byte 0xFC) .ap }),
    ([0xC0, 0x4F, 0x01, 0x02, 0x03, 0x04, 0x59, 0x48],
      .alsw3 (op (.immediate (.word 0x04030201))) (op (.deferred .fp)) (op (.register .r8))),
    ([0xC4, 0x05, 0xC3, 0x04, 0x8C, 0x10, 0x20, 0x30, 0x40],
      .arsw3 (op (.literal 5)) (op (.displacement (.byte 4) .r3)) (op (.displacement (.word 0x40302010) .sp))),
    ([0xC6, 0xF3, 0xE7, 0x42, 0xD6, 0x08],
      .arsh3 (op (.negLiteral 3)) { ty := some .sbyte, mode := .register .r2 } (op (.displacementDeferred (.byte 8) .r6))),
    ([0xC7, 0x6F, 0x80, 0xEF, 0x78, 0x56, 0x34, 0x12, 0x57],
      .arsb3 (op (.immediate (.byte 0x80))) (op (.absoluteDeferred 0x12345678)) (op (.deferred .r7))),
    ([0xDC, 0x05, 0xC3, 0x04, 0x8C, 0x10, 0x20, 0x30, 0x40],
      .addw3 (op (.literal 5)) (op (.displacement (.byte 4) .r3)) (op (.displacement (.word 0x40302010) .sp))),
    ([0xDE, 0xF3, 0xE7, 0x42, 0xD6, 0x08],
      .addh3 (op (.negLiteral 3)) { ty := some .sbyte, mode := .register .r2 } (op (.displacementDeferred (.byte 8) .r6))),
    ([0xDF, 0x6F, 0x80, 0xEF, 0x78, 0x56, 0x34, 0x12, 0x57],
      .addb3 (op (.immediate (.byte 0x80))) (op (.absoluteDeferred 0x12345678)) (op (.deferred .r7))),
    ([0xE4, 0x59, 0x41, 0xE2, 0xCA, 0xFC],
      .modw3 (op (.deferred .fp)) (op (.register .r1)) { ty := some .uhalf, mode := .displacement (.byte 0xFC) .ap }),
    ([0xE6, 0xC3, 0x04, 0x5F, 0x34, 0x12, 0x48],
      .modh3 (op (.displacement (.byte 4) .r3)) (op (.immediate (.half 0x1234))) (op (.register .r8))),
    ([0xE7, 0xE7, 0x42, 0x76, 0x8C, 0x10, 0x20, 0x30, 0x40],
      .modb3 { ty := some .sbyte, mode := .register .r2 } (op (.apOffset 6)) (op (.displacement (.word 0x40302010) .sp))),
    ([0xE8, 0xEF, 0x78, 0x56, 0x34, 0x12, 0xB4, 0xFE, 0xFF, 0xD6, 0x08],
      .mulw3 (op (.absoluteDeferred 0x12345678)) (op (.displacementDeferred (.half 0xFFFE) .r4)) (op (.displacementDeferred (.byte 8) .r6))),
    ([0xEA, 0x59, 0x41, 0x57], .mulh3 (op (.deferred .fp)) (op (.register .r1)) (op (.deferred .r7))),
    ([0xEB, 0xC3, 0x04, 0x5F, 0x34, 0x12, 0x7F, 0x00, 0x30, 0x00, 0x00],
      .mulb3 (op (.displacement (.byte 4) .r3)) (op (.immediate (.half 0x1234))) (op (.absolute 0x3000))),
    ([0xEC, 0xE7, 0x42, 0x76, 0x4B],
      .divw3 { ty := some .sbyte, mode := .register .r2 } (op (.apOffset 6)) (op (.register .psw))),
    ([0xEE, 0xEF, 0x78, 0x56, 0x34, 0x12, 0xB4, 0xFE, 0xFF, 0x6C],
      .divh3 (op (.absoluteDeferred 0x12345678)) (op (.displacementDeferred (.half 0xFFFE) .r4)) (op (.fpOffset 12))),
    ([0xEF, 0x59, 0x41, 0xE2, 0xCA, 0xFC],
      .divb3 (op (.deferred .fp)) (op (.register .r1)) { ty := some .uhalf, mode := .displacement (.byte 0xFC) .ap }),
    ([0xFC, 0xE7, 0x42, 0x76, 0x8C, 0x10, 0x20, 0x30, 0x40],
      .subw3 { ty := some .sbyte, mode := .register .r2 } (op (.apOffset 6)) (op (.displacement (.word 0x40302010) .sp))),
    ([0xFE, 0xEF, 0x78, 0x56, 0x34, 0x12, 0xB4, 0xFE, 0xFF, 0xD6, 0x08],
      .subh3 (op (.absoluteDeferred 0x12345678)) (op (.displacementDeferred (.half 0xFFFE) .r4)) (op (.displacementDeferred (.byte 8) .r6))),
    ([0xFF, 0x59, 0x41, 0x57], .subb3 (op (.deferred .fp)) (op (.register .r1)) (op (.deferred .r7)))] : List (List Byte × Instr)).all (fun e => decodes e.1 e.2) = true := by decide

/-- A second name's words decode to its twin (30_encoding R159). -/
theorem test_decode_second_names :
    ([(.rgequ, .rcc), (.rlssu, .rcs), (.bgeuh 0xF234, .bcch 0xF234), (.bgeub 0xFC, .bccb 0xFC), (.bluh 0xF234, .bcsh 0xF234),
      (.blub 0xFC, .bcsb 0xFC)] : List (Instr × Instr)).all (fun e => decodes (encode e.1) e.2) = true := by decide

/-! ## One step: the vectors of 95_test_vectors -/

/-- ALSW3 &2,%r0,%r0 -/
theorem test_A2_1_alsw3 :
    ends (start 0x1B 0x1000 [(.r0, 0x8F0FDFFD)] []
      [0xC0, 0x02, 0x40, 0x40])
      [(.pc, 0x1004), (.r0, 0x3C3F7FF4)] [] 0b0000 = true := by decide

/-- ARSH3 &2,%r0,%r0 -/
theorem test_A2_2_arsh3 :
    ends (start 0x1B 0x1000 [(.r0, 0xF0F77AF)] []
      [0xC6, 0x02, 0x40, 0x40])
      [(.pc, 0x1004), (.r0, 0x1DEB)] [] 0b0000 = true := by decide

/-- EXTFW &10,&4,L1,%r0 (L1 = $0x3000) -/
theorem test_A2_3_extfw :
    ends (start 0x1B 0x1000 [] [(0x3000, 0x1234567)]
      [0xCC, 0x0A, 0x04, 0x7F, 0x00, 0x30, 0x00, 0x00, 0x40])
      [(.pc, 0x1009), (.r0, 0x456)] [(0x3000, 0x1234567)] 0b0000 = true := by decide

/-- INSFW &11,&8,%r1,%r0 -/
theorem test_A2_4_insfw :
    ends (start 0x1B 0x1000 [(.r0, 0xABCDEF01), (.r1, 0x567)] []
      [0xC8, 0x0B, 0x08, 0x41, 0x40])
      [(.pc, 0x1005), (.r0, 0xABC56701), (.r1, 0x567)] [] 0b1000 = true := by decide

/-- LLSH3 &2,%r0,%r0 -/
theorem test_A2_5_llsh3 :
    ends (start 0x1B 0x1000 [(.r0, 0xF0FDFFD)] []
      [0xD2, 0x02, 0x40, 0x40])
      [(.pc, 0x1004), (.r0, 0xFFFF7FF4)] [] 0b0010 = true := by decide

/-- LRSW3 &0x11,%r0,%r0 -/
theorem test_A2_6_lrsw3 :
    ends (start 0x1B 0x1000 [(.r0, 0xC3C00000)] []
      [0xD4, 0x11, 0x40, 0x40])
      [(.pc, 0x1004), (.r0, 0x61E0)] [] 0b0000 = true := by decide

/-- MCOMW %r0,%r1 -/
theorem test_A2_7_mcomw :
    ends (start 0x1B 0x1000 [(.r0, 0x12345678)] []
      [0x88, 0x40, 0x41])
      [(.pc, 0x1003), (.r0, 0x12345678), (.r1, 0xEDCBA987)] [] 0b1000 = true := by decide

/-- MNEGB %r0,%r1 -/
theorem test_A2_8_mnegb :
    ends (start 0x1B 0x1000 [(.r0, 0x1234567)] []
      [0x8F, 0x40, 0x41])
      [(.pc, 0x1003), (.r0, 0x1234567), (.r1, 0xFFFFFF99)] [] 0b1011 = true := by decide

/-- MOVW %r0,%r1 -/
theorem test_A2_9_movw :
    ends (start 0x1B 0x1000 [(.r0, 0x1234567), (.r1, 0xABABABAB)] []
      [0x84, 0x40, 0x41])
      [(.pc, 0x1003), (.r0, 0x1234567), (.r1, 0x1234567)] [] 0b0000 = true := by decide

/-- MOVAW 4(%r0),%r1 -/
theorem test_A2_10_movaw :
    ends (start 0x1B 0x1000 [(.r0, 0x1010), (.r1, 0xABABABAB)] []
      [0x04, 0xC0, 0x04, 0x41])
      [(.pc, 0x1004), (.r0, 0x1010), (.r1, 0x1014)] [] 0b0000 = true := by decide

/-- ROTW &0x404,%r0,%r0 -/
theorem test_A2_12_rotw :
    ends (start 0x1B 0x1000 [(.r0, 0xF00007E)] []
      [0xD8, 0x5F, 0x04, 0x04, 0x40, 0x40])
      [(.pc, 0x1006), (.r0, 0xE0F00007)] [] 0b1000 = true := by decide

/-- MOVB %r0,%r1 -/
theorem test_B1_1_movb :
    ends (start 0x1B 0x1000 [(.r0, 0x1234567), (.r1, 0xABABABAB)] []
      [0x87, 0x40, 0x41])
      [(.pc, 0x1003), (.r0, 0x1234567), (.r1, 0x67)] [] 0b0000 = true := by decide

/-- MOVH %r0,%r1 -/
theorem test_B1_2_movh :
    ends (start 0x1B 0x1000 [(.r0, 0x1FFFE)] []
      [0x86, 0x40, 0x41])
      [(.pc, 0x1003), (.r0, 0x1FFFE), (.r1, 0xFFFFFFFE)] [] 0b1000 = true := by decide

/-- MOVB &-1,%r0 -/
theorem test_B1_3_movb :
    ends (start 0x1B 0x1000 [] []
      [0x87, 0xFF, 0x40])
      [(.pc, 0x1003), (.r0, 0xFFFFFFFF)] [] 0b1010 = true := by decide

/-- MOVW &0,%r3 -/
theorem test_B1_5_movw :
    ends (start 0x2C001B 0x1000 [] []
      [0x84, 0x00, 0x43])
      [(.pc, 0x1003), (.r3, 0x0)] [] 0b0100 = true := by decide

/-- MOVH 2(%r1),%r2 -/
theorem test_B1_8_movh :
    ends (start 0x1B 0x1000 [(.r1, 0x3000)] [(0x3000, 0x89ABCDEF)]
      [0x86, 0xC1, 0x02, 0x42])
      [(.pc, 0x1004), (.r1, 0x3000), (.r2, 0xFFFFCDEF)] [(0x3000, 0x89ABCDEF)] 0b1000 = true := by decide

/-- MOVAW $0x80000000,%r1 -/
theorem test_B1_15_movaw :
    ends (start 0x1B 0x1000 [] []
      [0x04, 0x7F, 0x00, 0x00, 0x00, 0x80, 0x41])
      [(.pc, 0x1007), (.r1, 0x80000000)] [] 0b1000 = true := by decide

/-- MCOMB %r0,%r1 -/
theorem test_B1_16_mcomb :
    ends (start 0x1B 0x1000 [(.r0, 0xF0)] []
      [0x8B, 0x40, 0x41])
      [(.pc, 0x1003), (.r0, 0xF0), (.r1, 0xFFFFFF0F)] [] 0b0010 = true := by decide

/-- MCOMH %r0,%r1 -/
theorem test_B1_17_mcomh :
    ends (start 0x1B 0x1000 [(.r0, 0x1234)] []
      [0x8A, 0x40, 0x41])
      [(.pc, 0x1003), (.r0, 0x1234), (.r1, 0xFFFFEDCB)] [] 0b1000 = true := by decide

/-- MNEGH %r0,%r1 -/
theorem test_B1_18_mnegh :
    ends (start 0x1B 0x1000 [(.r0, 0x8000)] []
      [0x8E, 0x40, 0x41])
      [(.pc, 0x1003), (.r0, 0x8000), (.r1, 0x8000)] [] 0b0011 = true := by decide

/-- MNEGW %r0,%r1 -/
theorem test_B1_19_mnegw :
    ends (start 0x1B 0x1000 [(.r0, 0x80000000)] []
      [0x8C, 0x40, 0x41])
      [(.pc, 0x1003), (.r0, 0x80000000), (.r1, 0x80000000)] [] 0b0011 = true := by decide

/-- MNEGW %r0,%r1 -/
theorem test_B1_20_mnegw :
    ends (start 0x1B 0x1000 [(.r0, 0x0)] []
      [0x8C, 0x40, 0x41])
      [(.pc, 0x1003), (.r0, 0x0), (.r1, 0x0)] [] 0b0100 = true := by decide

/-- SWAPBI $0x2000 -/
theorem test_B1_22_swapbi :
    ends (start 0x1B 0x1000 [(.r0, 0x11223344)] [(0x2000, 0x80000000)]
      [0x1F, 0x7F, 0x00, 0x20, 0x00, 0x00])
      [(.pc, 0x1006), (.r0, 0x80)] [(0x2000, 0x44000000)] 0b1000 = true := by decide

/-- SWAPHI (%r1) -/
theorem test_B1_23_swaphi :
    ends (start 0x1B 0x1000 [(.r0, 0x1), (.r1, 0x2000)] [(0x2000, 0x80010000)]
      [0x1E, 0x51])
      [(.pc, 0x1002), (.r0, 0xFFFF8001), (.r1, 0x2000)] [(0x2000, 0x10000)] 0b1000 = true := by decide

/-- MOVBLW -/
theorem test_B1_26_movblw :
    ends (start 0x1B 0x1000 [(.r2, 0x0)] []
      [0x30, 0x19])
      [(.pc, 0x1002), (.r2, 0x0)] [] 0b0000 = true := by decide

/-- STRCPY -/
theorem test_B1_28_strcpy :
    ends (start 0x1B 0x1000 [(.r0, 0x100), (.r1, 0x200)] [(0x100, 0x0), (0x200, 0x55000000)]
      [0x30, 0x35])
      [(.pc, 0x1002), (.r0, 0x100), (.r1, 0x200)] [(0x100, 0x0), (0x200, 0x0)] 0b0000 = true := by decide

/-- STREND -/
theorem test_B1_29_strend :
    ends (start 0x1B 0x1000 [(.r0, 0x400)] [(0x400, 0x0)]
      [0x30, 0x1F])
      [(.pc, 0x1002), (.r0, 0x400)] [(0x400, 0x0)] 0b0000 = true := by decide

/-- EXTFB &2,&1,%r1,%r0 -/
theorem test_B2_1_extfb :
    ends (start 0x1B 0x1000 [(.r1, 0xB6)] []
      [0xCF, 0x02, 0x01, 0x41, 0x40])
      [(.pc, 0x1005), (.r0, 0x3), (.r1, 0xB6)] [] 0b0000 = true := by decide

/-- EXTFH &3,&14,%r1,%r0 -/
theorem test_B2_2_extfh :
    ends (start 0x1B 0x1000 [(.r1, 0x8000)] []
      [0xCE, 0x03, 0x0E, 0x41, 0x40])
      [(.pc, 0x1005), (.r0, 0xE), (.r1, 0x8000)] [] 0b0000 = true := by decide

/-- EXTFW &3,&30,%r1,%r0 -/
theorem test_B2_3_extfw :
    ends (start 0x1B 0x1000 [(.r1, 0x80000001)] []
      [0xCC, 0x03, 0x1E, 0x41, 0x40])
      [(.pc, 0x1005), (.r0, 0x6), (.r1, 0x80000001)] [] 0b0000 = true := by decide

/-- EXTFB &8,&0,%r1,%r0 -/
theorem test_B2_4_extfb :
    ends (start 0x1B 0x1000 [(.r1, 0xFF)] []
      [0xCF, 0x08, 0x00, 0x41, 0x40])
      [(.pc, 0x1005), (.r0, 0xFF), (.r1, 0xFF)] [] 0b1010 = true := by decide

/-- INSFB &2,&1,%r1,$0x3000 -/
theorem test_B2_6_insfb :
    ends (start 0x1B 0x1000 [(.r1, 0x5)] [(0x3000, 0xF0000000)]
      [0xCB, 0x02, 0x01, 0x41, 0x7F, 0x00, 0x30, 0x00, 0x00])
      [(.pc, 0x1009), (.r1, 0x5)] [(0x3000, 0xFA000000)] 0b1000 = true := by decide

/-- INSFH &7,&12,%r1,$0x3000 -/
theorem test_B2_7_insfh :
    ends (start 0x1B 0x1000 [(.r1, 0xFF)] [(0x3000, 0x0)]
      [0xCA, 0x07, 0x0C, 0x41, 0x7F, 0x00, 0x30, 0x00, 0x00])
      [(.pc, 0x1009), (.r1, 0xFF)] [(0x3000, 0xF0000000)] 0b1010 = true := by decide

/-- INSFW &7,&28,%r1,%r0 -/
theorem test_B2_8_insfw :
    ends (start 0x1B 0x1000 [(.r0, 0x0), (.r1, 0xAB)] []
      [0xC8, 0x07, 0x1C, 0x41, 0x40])
      [(.pc, 0x1005), (.r0, 0xB000000A), (.r1, 0xAB)] [] 0b1000 = true := by decide

/-- ADDB2 %r1,%r0 -/
theorem test_B3_1_addb2 :
    ends (start 0x1B 0x1000 [(.r0, 0xC8), (.r1, 0x64)] []
      [0x9F, 0x41, 0x40])
      [(.pc, 0x1003), (.r0, 0x12C), (.r1, 0x64)] [] 0b0011 = true := by decide

/-- ADDB2 &-1,%r0 -/
theorem test_B3_2_addb2 :
    ends (start 0x1B 0x1000 [(.r0, 0x5)] []
      [0x9F, 0xFF, 0x40])
      [(.pc, 0x1003), (.r0, 0x4)] [] 0b0001 = true := by decide

/-- ADDH2 %r0,%r3 -/
theorem test_B3_4_addh2 :
    ends (start 0x1B 0x1000 [(.r0, 0x1), (.r3, 0x7FFF)] []
      [0x9E, 0x40, 0x43])
      [(.pc, 0x1003), (.r0, 0x1), (.r3, 0x8000)] [] 0b0010 = true := by decide

/-- ADDW2 %r0,%r1 -/
theorem test_B3_5_addw2 :
    ends (start 0x1B 0x1000 [(.r0, 0x1), (.r1, 0xFFFFFFFF)] []
      [0x9C, 0x40, 0x41])
      [(.pc, 0x1003), (.r0, 0x1), (.r1, 0x0)] [] 0b0101 = true := by decide

/-- ADDW2 %r0,%r1 -/
theorem test_B3_6_addw2 :
    ends (start 0x1B 0x1000 [(.r0, 0x1), (.r1, 0x7FFFFFFF)] []
      [0x9C, 0x40, 0x41])
      [(.pc, 0x1003), (.r0, 0x1), (.r1, 0x80000000)] [] 0b0010 = true := by decide

/-- ADDW3 %r0,%r1,%r2 -/
theorem test_B3_7_addw3 :
    ends (start 0x1B 0x1000 [(.r0, 0x80000000), (.r1, 0x80000000)] []
      [0xDC, 0x40, 0x41, 0x42])
      [(.pc, 0x1004), (.r0, 0x80000000), (.r1, 0x80000000), (.r2, 0x0)] [] 0b1011 = true := by decide

/-- ADDH3 %r0,%r1,%r2 -/
theorem test_B3_8_addh3 :
    ends (start 0x1B 0x1000 [(.r0, 0xFFFE), (.r1, 0x5)] []
      [0xDE, 0x40, 0x41, 0x42])
      [(.pc, 0x1004), (.r0, 0xFFFE), (.r1, 0x5), (.r2, 0x3)] [] 0b0001 = true := by decide

/-- ADDB3 {sbyte}%r0,%r1,%r2 -/
theorem test_B3_9_addb3 :
    ends (start 0x1B 0x1000 [(.r0, 0xFF), (.r1, 0x1)] []
      [0xDF, 0xE7, 0x40, 0x41, 0x42])
      [(.pc, 0x1005), (.r0, 0xFF), (.r1, 0x1), (.r2, 0x0)] [] 0b0101 = true := by decide

/-- ADDW3 {ubyte}%r0,{sword}%r1,%r2 -/
theorem test_B3_10_addw3 :
    ends (start 0x1B 0x1000 [(.r0, 0x1FF), (.r1, 0xFFFFFFFF)] []
      [0xDC, 0xE3, 0x40, 0xE4, 0x41, 0x42])
      [(.pc, 0x1006), (.r0, 0x1FF), (.r1, 0xFFFFFFFF), (.r2, 0xFE)] [] 0b0001 = true := by decide

/-- SUBB2 %r1,%r0 -/
theorem test_B3_11_subb2 :
    ends (start 0x1B 0x1000 [(.r0, 0x5), (.r1, 0xA)] []
      [0xBF, 0x41, 0x40])
      [(.pc, 0x1003), (.r0, 0xFFFFFFFB), (.r1, 0xA)] [] 0b1011 = true := by decide

/-- SUBH2 %r1,%r0 -/
theorem test_B3_12_subh2 :
    ends (start 0x1B 0x1000 [(.r0, 0x8000), (.r1, 0x1)] []
      [0xBE, 0x41, 0x40])
      [(.pc, 0x1003), (.r0, 0xFFFF7FFF), (.r1, 0x1)] [] 0b1010 = true := by decide

/-- SUBW2 %r1,%r0 -/
theorem test_B3_13_subw2 :
    ends (start 0x1B 0x1000 [(.r0, 0x0), (.r1, 0x1)] []
      [0xBC, 0x41, 0x40])
      [(.pc, 0x1003), (.r0, 0xFFFFFFFF), (.r1, 0x1)] [] 0b1001 = true := by decide

/-- SUBW2 %r1,%r0 -/
theorem test_B3_14_subw2 :
    ends (start 0x1B 0x1000 [(.r0, 0x5), (.r1, 0x5)] []
      [0xBC, 0x41, 0x40])
      [(.pc, 0x1003), (.r0, 0x0), (.r1, 0x5)] [] 0b0100 = true := by decide

/-- SUBW3 %r0,%r1,%r2 -/
theorem test_B3_15_subw3 :
    ends (start 0x1B 0x1000 [(.r0, 0x1), (.r1, 0x80000000)] []
      [0xFC, 0x40, 0x41, 0x42])
      [(.pc, 0x1004), (.r0, 0x1), (.r1, 0x80000000), (.r2, 0x7FFFFFFF)] [] 0b1010 = true := by decide

/-- SUBH3 %r1,%r3,%r0 -/
theorem test_B3_16_subh3 :
    ends (start 0x1B 0x1000 [(.r1, 0xFFFF), (.r3, 0x1)] []
      [0xFE, 0x41, 0x43, 0x40])
      [(.pc, 0x1004), (.r0, 0x2), (.r1, 0xFFFF), (.r3, 0x1)] [] 0b0001 = true := by decide

/-- INCB (%r0) -/
theorem test_B3_17_incb :
    ends (start 0x1B 0x1000 [(.r0, 0x3000)] [(0x3000, 0xFF000000)]
      [0x93, 0x50])
      [(.pc, 0x1002), (.r0, 0x3000)] [(0x3000, 0x0)] 0b0011 = true := by decide

/-- INCH %r0 -/
theorem test_B3_18_inch :
    ends (start 0x1B 0x1000 [(.r0, 0x7FFF)] []
      [0x92, 0x40])
      [(.pc, 0x1002), (.r0, 0x8000)] [] 0b0010 = true := by decide

/-- INCW %r2 -/
theorem test_B3_19_incw :
    ends (start 0x1B 0x1000 [(.r2, 0xFFFFFFFF)] []
      [0x90, 0x42])
      [(.pc, 0x1002), (.r2, 0x0)] [] 0b0101 = true := by decide

/-- DECB (%r0) -/
theorem test_B3_20_decb :
    ends (start 0x1B 0x1000 [(.r0, 0x3000)] [(0x3000, 0x0)]
      [0x97, 0x50])
      [(.pc, 0x1002), (.r0, 0x3000)] [(0x3000, 0xFF000000)] 0b1011 = true := by decide

/-- DECW %r0 -/
theorem test_B3_21_decw :
    ends (start 0x1B 0x1000 [(.r0, 0x1)] []
      [0x94, 0x40])
      [(.pc, 0x1002), (.r0, 0x0)] [] 0b0100 = true := by decide

/-- DECW %r0 -/
theorem test_B3_22_decw :
    ends (start 0x1B 0x1000 [(.r0, 0x80000000)] []
      [0x94, 0x40])
      [(.pc, 0x1002), (.r0, 0x7FFFFFFF)] [] 0b1010 = true := by decide

/-- MULB2 %r1,%r0 -/
theorem test_B3_23_mulb2 :
    ends (start 0x1B 0x1000 [(.r0, 0x10), (.r1, 0x10)] []
      [0xAB, 0x41, 0x40])
      [(.pc, 0x1003), (.r0, 0x100), (.r1, 0x10)] [] 0b0010 = true := by decide

/-- MULB2 %r1,%r0 -/
theorem test_B3_24_mulb2 :
    ends (start 0x1B 0x1000 [(.r0, 0xF), (.r1, 0x11)] []
      [0xAB, 0x41, 0x40])
      [(.pc, 0x1003), (.r0, 0xFF), (.r1, 0x11)] [] 0b0000 = true := by decide

/-- MULH2 %r1,%r0 -/
theorem test_B3_25_mulh2 :
    ends (start 0x1B 0x1000 [(.r0, 0x64), (.r1, 0xFFFD)] []
      [0xAA, 0x41, 0x40])
      [(.pc, 0x1003), (.r0, 0xFFFFFED4), (.r1, 0xFFFD)] [] 0b1000 = true := by decide

/-- MULW2 %r1,%r0 -/
theorem test_B3_26_mulw2 :
    ends (start 0x1B 0x1000 [(.r0, 0x10000), (.r1, 0x10000)] []
      [0xA8, 0x41, 0x40])
      [(.pc, 0x1003), (.r0, 0x0), (.r1, 0x10000)] [] 0b0010 = true := by decide

/-- MULW3 %r0,%r1,%r2 -/
theorem test_B3_27_mulw3 :
    ends (start 0x1B 0x1000 [(.r0, 0xFFFFFFFE), (.r1, 0x3)] []
      [0xE8, 0x40, 0x41, 0x42])
      [(.pc, 0x1004), (.r0, 0xFFFFFFFE), (.r1, 0x3), (.r2, 0xFFFFFFFA)] [] 0b1000 = true := by decide

/-- MULW3 %r0,%r1,%r2 -/
theorem test_B3_28_mulw3 :
    ends (start 0x1B 0x1000 [(.r0, 0x10000), (.r1, 0xFFFF8000)] []
      [0xE8, 0x40, 0x41, 0x42])
      [(.pc, 0x1004), (.r0, 0x10000), (.r1, 0xFFFF8000), (.r2, 0x80000000)] [] 0b1000 = true := by decide

/-- DIVB2 &40,%r6 -/
theorem test_B3_30_divb2 :
    ends (start 0x1B 0x1000 [(.r6, 0xC8)] []
      [0xAF, 0x28, 0x46])
      [(.pc, 0x1003), (.r6, 0x5)] [] 0b0000 = true := by decide

/-- DIVH2 %r1,%r0 -/
theorem test_B3_31_divh2 :
    ends (start 0x1B 0x1000 [(.r0, 0xFFF9), (.r1, 0x2)] []
      [0xAE, 0x41, 0x40])
      [(.pc, 0x1003), (.r0, 0xFFFFFFFD), (.r1, 0x2)] [] 0b1000 = true := by decide

/-- DIVW2 %r1,%r0 -/
theorem test_B3_32_divw2 :
    ends (start 0x1B 0x1000 [(.r0, 0x7), (.r1, 0xFFFFFFFE)] []
      [0xAC, 0x41, 0x40])
      [(.pc, 0x1003), (.r0, 0xFFFFFFFD), (.r1, 0xFFFFFFFE)] [] 0b1000 = true := by decide

/-- DIVW2 %r1,%r0 -/
theorem test_B3_33_divw2 :
    ends (start 0x1B 0x1000 [(.r0, 0x80000000), (.r1, 0xFFFFFFFF)] []
      [0xAC, 0x41, 0x40])
      [(.pc, 0x1003), (.r0, 0x80000000), (.r1, 0xFFFFFFFF)] [] 0b0010 = true := by decide

/-- DIVW3 &3,%r1,%r0 -/
theorem test_B3_35_divw3 :
    ends (start 0x1B 0x1000 [(.r1, 0x1)] []
      [0xEC, 0x03, 0x41, 0x40])
      [(.pc, 0x1004), (.r0, 0x0), (.r1, 0x1)] [] 0b0100 = true := by decide

/-- MODB2 &40,%r3 -/
theorem test_B3_36_modb2 :
    ends (start 0x1B 0x1000 [(.r3, 0xC9)] []
      [0xA7, 0x28, 0x43])
      [(.pc, 0x1003), (.r3, 0x1)] [] 0b0000 = true := by decide

/-- MODH2 %r1,%r0 -/
theorem test_B3_37_modh2 :
    ends (start 0x1B 0x1000 [(.r0, 0xFFF9), (.r1, 0x2)] []
      [0xA6, 0x41, 0x40])
      [(.pc, 0x1003), (.r0, 0xFFFFFFFF), (.r1, 0x2)] [] 0b1000 = true := by decide

/-- MODW2 %r1,%r0 -/
theorem test_B3_38_modw2 :
    ends (start 0x1B 0x1000 [(.r0, 0x7), (.r1, 0xFFFFFFFE)] []
      [0xA4, 0x41, 0x40])
      [(.pc, 0x1003), (.r0, 0x1), (.r1, 0xFFFFFFFE)] [] 0b0000 = true := by decide

/-- MODW2 %r1,%r0 -/
theorem test_B3_39_modw2 :
    ends (start 0x1B 0x1000 [(.r0, 0x80000000), (.r1, 0xFFFFFFFF)] []
      [0xA4, 0x41, 0x40])
      [(.pc, 0x1003), (.r0, 0x0), (.r1, 0xFFFFFFFF)] [] 0b0100 = true := by decide

/-- ARSB3 &1,%r0,%r1 -/
theorem test_B3_41_arsb3 :
    ends (start 0x1B 0x1000 [(.r0, 0x80)] []
      [0xC7, 0x01, 0x40, 0x41])
      [(.pc, 0x1004), (.r0, 0x80), (.r1, 0xFFFFFFC0)] [] 0b1000 = true := by decide

/-- ARSW3 &31,%r0,%r0 -/
theorem test_B3_42_arsw3 :
    ends (start 0x1B 0x1000 [(.r0, 0x80000000)] []
      [0xC4, 0x1F, 0x40, 0x40])
      [(.pc, 0x1004), (.r0, 0xFFFFFFFF)] [] 0b1000 = true := by decide

/-- ARSW3 %r1,%r0,%r0 -/
theorem test_B3_43_arsw3 :
    ends (start 0x1B 0x1000 [(.r0, 0x80000000), (.r1, 0x20)] []
      [0xC4, 0x41, 0x40, 0x40])
      [(.pc, 0x1004), (.r0, 0x80000000), (.r1, 0x20)] [] 0b1000 = true := by decide

/-- ALSW3 &1,%r0,%r1 -/
theorem test_B3_44_alsw3 :
    ends (start 0x1B 0x1000 [(.r0, 0x40000000)] []
      [0xC0, 0x01, 0x40, 0x41])
      [(.pc, 0x1004), (.r0, 0x40000000), (.r1, 0x80000000)] [] 0b1000 = true := by decide

/-- ANDB2 &7,6(%r1) -/
theorem test_B4_1_andb2 :
    ends (start 0x1B 0x1000 [(.r1, 0x3000)] [(0x3004, 0x6D00)]
      [0xBB, 0x07, 0xC1, 0x06])
      [(.pc, 0x1004), (.r1, 0x3000)] [(0x3004, 0x500)] 0b0000 = true := by decide

/-- ANDH2 %r0,%r1 -/
theorem test_B4_2_andh2 :
    ends (start 0x1B 0x1000 [(.r0, 0x8FFF), (.r1, 0xF0F0)] []
      [0xBA, 0x40, 0x41])
      [(.pc, 0x1003), (.r0, 0x8FFF), (.r1, 0xFFFF80F0)] [] 0b1000 = true := by decide

/-- ANDW3 %r2,%r1,%r0 -/
theorem test_B4_3_andw3 :
    ends (start 0x1B 0x1000 [(.r1, 0x80000000), (.r2, 0x80000001)] []
      [0xF8, 0x42, 0x41, 0x40])
      [(.pc, 0x1004), (.r0, 0x80000000), (.r1, 0x80000000), (.r2, 0x80000001)] [] 0b1000 = true := by decide

/-- ORB2 &-16,%r0 -/
theorem test_B4_4_orb2 :
    ends (start 0x1B 0x1000 [(.r0, 0x1)] []
      [0xB3, 0xF0, 0x40])
      [(.pc, 0x1003), (.r0, 0xFFFFFFF1)] [] 0b1010 = true := by decide

/-- ORH2 %r0,%r1 -/
theorem test_B4_5_orh2 :
    ends (start 0x1B 0x1000 [(.r0, 0x1), (.r1, 0x8000)] []
      [0xB2, 0x40, 0x41])
      [(.pc, 0x1003), (.r0, 0x1), (.r1, 0xFFFF8001)] [] 0b1000 = true := by decide

/-- ORW2 %r0,%r1 -/
theorem test_B4_6_orw2 :
    ends (start 0x2C001B 0x1000 [(.r0, 0x0), (.r1, 0x0)] []
      [0xB0, 0x40, 0x41])
      [(.pc, 0x1003), (.r0, 0x0), (.r1, 0x0)] [] 0b0100 = true := by decide

/-- XORB2 &-1,%r0 -/
theorem test_B4_7_xorb2 :
    ends (start 0x1B 0x1000 [(.r0, 0xF)] []
      [0xB7, 0xFF, 0x40])
      [(.pc, 0x1003), (.r0, 0xFFFFFFF0)] [] 0b1010 = true := by decide

/-- XORW3 %r0,%r0,%r3 -/
theorem test_B4_8_xorw3 :
    ends (start 0x1B 0x1000 [(.r0, 0x12345678)] []
      [0xF4, 0x40, 0x40, 0x43])
      [(.pc, 0x1004), (.r0, 0x12345678), (.r3, 0x0)] [] 0b0100 = true := by decide

/-- XORH3 %r0,%r1,%r2 -/
theorem test_B4_9_xorh3 :
    ends (start 0x1B 0x1000 [(.r0, 0x7FFF), (.r1, 0x8000)] []
      [0xF6, 0x40, 0x41, 0x42])
      [(.pc, 0x1004), (.r0, 0x7FFF), (.r1, 0x8000), (.r2, 0xFFFFFFFF)] [] 0b1000 = true := by decide

/-- CMPB &10,%r0 -/
theorem test_B4_10_cmpb :
    ends (start 0x1B 0x1000 [(.r0, 0x105)] []
      [0x3F, 0x0A, 0x40])
      [(.pc, 0x1003), (.r0, 0x105)] [] 0b1001 = true := by decide

/-- CMPB &10,%r0 -/
theorem test_B4_11_cmpb :
    ends (start 0x8001B 0x1000 [(.r0, 0x10A)] []
      [0x3F, 0x0A, 0x40])
      [(.pc, 0x1003), (.r0, 0x10A)] [] 0b0100 = true := by decide

/-- CMPH %r0,%r1 -/
theorem test_B4_13_cmph :
    ends (start 0x1B 0x1000 [(.r0, 0x1), (.r1, 0xFFFF)] []
      [0x3E, 0x40, 0x41])
      [(.pc, 0x1003), (.r0, 0x1), (.r1, 0xFFFF)] [] 0b1000 = true := by decide

/-- CMPW &1,%r0 -/
theorem test_B4_14_cmpw :
    ends (start 0x1B 0x1000 [(.r0, 0x80000000)] []
      [0x3C, 0x01, 0x40])
      [(.pc, 0x1003), (.r0, 0x80000000)] [] 0b1000 = true := by decide

/-- CMPW %r0,%r1 -/
theorem test_B4_15_cmpw :
    ends (start 0x1B 0x1000 [(.r0, 0x80000000), (.r1, 0x1)] []
      [0x3C, 0x40, 0x41])
      [(.pc, 0x1003), (.r0, 0x80000000), (.r1, 0x1)] [] 0b0001 = true := by decide

/-- TSTB %r0 -/
theorem test_B4_16_tstb :
    ends (start 0x1B 0x1000 [(.r0, 0x12345680)] []
      [0x2B, 0x40])
      [(.pc, 0x1002), (.r0, 0x12345680)] [] 0b0000 = true := by decide

/-- TSTB {sbyte}%r0 -/
theorem test_B4_17_tstb :
    ends (start 0x1B 0x1000 [(.r0, 0x12345680)] []
      [0x2B, 0xE7, 0x40])
      [(.pc, 0x1003), (.r0, 0x12345680)] [] 0b1000 = true := by decide

/-- TSTH %r0 -/
theorem test_B4_18_tsth :
    ends (start 0xC001B 0x1000 [(.r0, 0x8000)] []
      [0x2A, 0x40])
      [(.pc, 0x1002), (.r0, 0x8000)] [] 0b1000 = true := by decide

/-- TSTW %r0 -/
theorem test_B4_19_tstw :
    ends (start 0x1B 0x1000 [(.r0, 0x0)] []
      [0x28, 0x40])
      [(.pc, 0x1002), (.r0, 0x0)] [] 0b0100 = true := by decide

/-- BITB &1,%r0 -/
theorem test_B4_20_bitb :
    ends (start 0x1B 0x1000 [(.r0, 0xC0)] []
      [0x3B, 0x01, 0x40])
      [(.pc, 0x1003), (.r0, 0xC0)] [] 0b0100 = true := by decide

/-- BITB &0x80,%r0 -/
theorem test_B4_21_bitb :
    ends (start 0x1B 0x1000 [(.r0, 0xC1)] []
      [0x3B, 0x6F, 0x80, 0x40])
      [(.pc, 0x1004), (.r0, 0xC1)] [] 0b1000 = true := by decide

/-- BITH %r1,%r0 -/
theorem test_B4_22_bith :
    ends (start 0x1B 0x1000 [(.r0, 0xFFFF), (.r1, 0x8000)] []
      [0x3A, 0x41, 0x40])
      [(.pc, 0x1003), (.r0, 0xFFFF), (.r1, 0x8000)] [] 0b1000 = true := by decide

/-- BITW %r1,%r0 -/
theorem test_B4_23_bitw :
    ends (start 0x1B 0x1000 [(.r0, 0x12345678), (.r1, 0xFF00)] []
      [0x38, 0x41, 0x40])
      [(.pc, 0x1003), (.r0, 0x12345678), (.r1, 0xFF00)] [] 0b0000 = true := by decide

/-- CLRH %r1 -/
theorem test_B4_24_clrh :
    ends (start 0x2C001B 0x1000 [(.r1, 0xFFFFFFFF)] []
      [0x82, 0x41])
      [(.pc, 0x1002), (.r1, 0x0)] [] 0b0100 = true := by decide

/-- CLRB *$0x300 -/
theorem test_B4_25_clrb :
    ends (start 0x1B 0x1000 [] [(0x300, 0x3001), (0x3000, 0xAABBCCDD)]
      [0x83, 0xEF, 0x00, 0x03, 0x00, 0x00])
      [(.pc, 0x1006)] [(0x300, 0x3001), (0x3000, 0xAA00CCDD)] 0b0100 = true := by decide

/-- LLSB3 &1,%r0,%r1 -/
theorem test_B4_26_llsb3 :
    ends (start 0x1B 0x1000 [(.r0, 0x81)] []
      [0xD3, 0x01, 0x40, 0x41])
      [(.pc, 0x1004), (.r0, 0x81), (.r1, 0x102)] [] 0b0010 = true := by decide

/-- LLSW3 &31,%r0,%r1 -/
theorem test_B4_27_llsw3 :
    ends (start 0x1B 0x1000 [(.r0, 0x1)] []
      [0xD0, 0x1F, 0x40, 0x41])
      [(.pc, 0x1004), (.r0, 0x1), (.r1, 0x80000000)] [] 0b1000 = true := by decide

/-- LLSW3 %r2,%r0,%r1 -/
theorem test_B4_28_llsw3 :
    ends (start 0x1B 0x1000 [(.r0, 0x12345678), (.r2, 0x24)] []
      [0xD0, 0x42, 0x40, 0x41])
      [(.pc, 0x1004), (.r0, 0x12345678), (.r1, 0x23456780), (.r2, 0x24)] [] 0b0000 = true := by decide

/-- ROTW &0,%r0,%r1 -/
theorem test_B4_29_rotw :
    ends (start 0x1B 0x1000 [(.r0, 0x80000000)] []
      [0xD8, 0x00, 0x40, 0x41])
      [(.pc, 0x1004), (.r0, 0x80000000), (.r1, 0x80000000)] [] 0b1000 = true := by decide

/-- BRB -/
theorem test_B5_1_brb :
    ends (start 0x1B 0x1000 [] []
      [0x7B, 0x0A])
      [(.pc, 0x100A)] [] 0b0000 = true := by decide

/-- BRH -/
theorem test_B5_2_brh :
    ends (start 0x1B 0x1000 [] []
      [0x7A, 0xFD, 0xFF])
      [(.pc, 0xFFD)] [] 0b0000 = true := by decide

/-- BEB -/
theorem test_B5_3_beb :
    ends (start 0x10001B 0x1000 [] []
      [0x7F, 0x10])
      [(.pc, 0x1010)] [] 0b0100 = true := by decide

/-- BEB (duplicate opcode) -/
theorem test_B5_4_beb6f :
    ends (start 0x2C001B 0x1000 [] []
      [0x6F, 0x10])
      [(.pc, 0x1002)] [] 0b1011 = true := by decide

/-- BNEB -/
theorem test_B5_5_bneb :
    ends (start 0x1B 0x1000 [] []
      [0x77, 0xFE])
      [(.pc, 0xFFE)] [] 0b0000 = true := by decide

/-- BNEB (duplicate opcode) -/
theorem test_B5_6_bneb67 :
    ends (start 0x1B 0x1000 [] []
      [0x67, 0x10])
      [(.pc, 0x1010)] [] 0b0000 = true := by decide

/-- BGB -/
theorem test_B5_7_bgb :
    ends (start 0x1B 0x1000 [] []
      [0x47, 0x10])
      [(.pc, 0x1010)] [] 0b0000 = true := by decide

/-- BGB -/
theorem test_B5_8_bgb :
    ends (start 0x10001B 0x1000 [] []
      [0x47, 0x10])
      [(.pc, 0x1002)] [] 0b0100 = true := by decide

/-- BGEB -/
theorem test_B5_9_bgeb :
    ends (start 0x20001B 0x1000 [] []
      [0x43, 0x10])
      [(.pc, 0x1002)] [] 0b1000 = true := by decide

/-- BGEB -/
theorem test_B5_10_bgeb :
    ends (start 0x10001B 0x1000 [] []
      [0x43, 0x10])
      [(.pc, 0x1010)] [] 0b0100 = true := by decide

/-- BLB -/
theorem test_B5_11_blb :
    ends (start 0x20001B 0x1000 [] []
      [0x4B, 0x10])
      [(.pc, 0x1010)] [] 0b1000 = true := by decide

/-- BLB -/
theorem test_B5_12_blb :
    ends (start 0x30001B 0x1000 [] []
      [0x4B, 0x10])
      [(.pc, 0x1002)] [] 0b1100 = true := by decide

/-- BLEH -/
theorem test_B5_13_bleh :
    ends (start 0x10001B 0x1000 [] []
      [0x4E, 0x00, 0x01])
      [(.pc, 0x1100)] [] 0b0100 = true := by decide

/-- BGUB -/
theorem test_B5_14_bgub :
    ends (start 0x4001B 0x1000 [] []
      [0x57, 0x10])
      [(.pc, 0x1002)] [] 0b0001 = true := by decide

/-- BGUB -/
theorem test_B5_15_bgub :
    ends (start 0x1B 0x1000 [] []
      [0x57, 0x10])
      [(.pc, 0x1010)] [] 0b0000 = true := by decide

/-- BLEUB -/
theorem test_B5_16_bleub :
    ends (start 0x4001B 0x1000 [] []
      [0x5F, 0x10])
      [(.pc, 0x1010)] [] 0b0001 = true := by decide

/-- BCCB -/
theorem test_B5_17_bccb :
    ends (start 0x4001B 0x1000 [] []
      [0x53, 0x09])
      [(.pc, 0x1002)] [] 0b0001 = true := by decide

/-- BCSH -/
theorem test_B5_18_bcsh :
    ends (start 0x4001B 0x1000 [] []
      [0x5A, 0x34, 0x12])
      [(.pc, 0x2234)] [] 0b0001 = true := by decide

/-- BVSB -/
theorem test_B5_19_bvsb :
    ends (start 0x8001B 0x1000 [] []
      [0x6B, 0xF1])
      [(.pc, 0xFF1)] [] 0b0010 = true := by decide

/-- BVCH at PC = 00010000 -/
theorem test_B5_20_bvch :
    ends (start 0x1B 0x10000 [] []
      [0x62, 0x21, 0x8F])
      [(.pc, 0x8F21)] [] 0b0000 = true := by decide

/-- BSBB 0x10 -/
theorem test_B5_30_bsbb :
    ends (start 0x1B 0x1000 [(.sp, 0x2000)] []
      [0x37, 0x10])
      [(.pc, 0x1010), (.sp, 0x2004)] [(0x2000, 0x1002)] 0b0000 = true := by decide

/-- BSBH -/
theorem test_B5_31_bsbh :
    ends (start 0x1B 0x1000 [(.sp, 0x2000)] []
      [0x36, 0x00, 0x01])
      [(.pc, 0x1100), (.sp, 0x2004)] [(0x2000, 0x1003)] 0b0000 = true := by decide

/-- RSB -/
theorem test_B5_32_rsb :
    ends (start 0x1B 0x1000 [(.sp, 0x2004)] [(0x2000, 0x1002)]
      [0x78])
      [(.pc, 0x1002), (.sp, 0x2000)] [(0x2000, 0x1002)] 0b0000 = true := by decide

/-- JMP (%r0) -/
theorem test_B5_33_jmp :
    ends (start 0x1B 0x1000 [(.r0, 0x3000)] []
      [0x24, 0x50])
      [(.pc, 0x3000), (.r0, 0x3000)] [] 0b0000 = true := by decide

/-- JMP *$0x2000 -/
theorem test_B5_34_jmp :
    ends (start 0x1B 0x1000 [] [(0x2000, 0x4444)]
      [0x24, 0xEF, 0x00, 0x20, 0x00, 0x00])
      [(.pc, 0x4444)] [(0x2000, 0x4444)] 0b0000 = true := by decide

/-- JSB (%r0) -/
theorem test_B5_37_jsb :
    ends (start 0x1B 0x1000 [(.sp, 0x2000), (.r0, 0x3000)] []
      [0x34, 0x50])
      [(.pc, 0x3000), (.sp, 0x2004), (.r0, 0x3000)] [(0x2000, 0x1002)] 0b0000 = true := by decide

/-- JSB 0(%sp) -/
theorem test_B5_38_jsb :
    ends (start 0x1B 0x1000 [(.sp, 0x2000)] []
      [0x34, 0xCC, 0x00])
      [(.pc, 0x2000), (.sp, 0x2004)] [(0x2000, 0x1003)] 0b0000 = true := by decide

/-- REQL -/
theorem test_B5_39_reql :
    ends (start 0x10001B 0x1000 [(.sp, 0x2004)] [(0x2000, 0x1234)]
      [0x7C])
      [(.pc, 0x1234), (.sp, 0x2000)] [(0x2000, 0x1234)] 0b0100 = true := by decide

/-- REQL -/
theorem test_B5_40_reql :
    ends (start 0x1B 0x1000 [(.sp, 0x2004)] []
      [0x7C])
      [(.pc, 0x1001), (.sp, 0x2004)] [] 0b0000 = true := by decide

/-- RGEQU / RCC -/
theorem test_B5_41_rcc :
    ends (start 0x4001B 0x1000 [(.sp, 0x2004)] []
      [0x50])
      [(.pc, 0x1001), (.sp, 0x2004)] [] 0b0001 = true := by decide

/-- RLSSU / RCS -/
theorem test_B5_42_rcs :
    ends (start 0x4001B 0x1000 [(.sp, 0x2004)] [(0x2000, 0x1234)]
      [0x58])
      [(.pc, 0x1234), (.sp, 0x2000)] [(0x2000, 0x1234)] 0b0001 = true := by decide

/-- RET -/
theorem test_B5_43_ret :
    ends (start 0x1B 0x1000 [(.ap, 0x2004), (.sp, 0x2014)] [(0x200C, 0x100C), (0x2010, 0x500)]
      [0x08])
      [(.ap, 0x500), (.pc, 0x100C), (.sp, 0x2004)] [(0x200C, 0x100C), (0x2010, 0x500)] 0b0000 = true := by decide

/-- CALL -8(%sp),$0x1100 at PC = 1004 -/
theorem test_B5_44_call :
    ends (start 0x1B 0x1004 [(.ap, 0x500), (.sp, 0x200C)] []
      [0x2C, 0xCC, 0xF8, 0x7F, 0x00, 0x11, 0x00, 0x00])
      [(.ap, 0x2004), (.pc, 0x1100), (.sp, 0x2014)] [(0x200C, 0x100C), (0x2010, 0x500)] 0b0000 = true := by decide

/-- SAVE %r3 -/
theorem test_B5_45_save :
    ends (start 0x1B 0x1000 [(.fp, 0x600), (.sp, 0x2014), (.r3, 0x3), (.r4, 0x4), (.r5, 0x5), (.r6, 0x6), (.r7, 0x7), (.r8, 0x8)] []
      [0x10, 0x43])
      [(.fp, 0x2030), (.pc, 0x1002), (.sp, 0x2030), (.r3, 0x3), (.r4, 0x4), (.r5, 0x5), (.r6, 0x6), (.r7, 0x7), (.r8, 0x8)] [(0x2014, 0x600), (0x2018, 0x3), (0x201C, 0x4), (0x2020, 0x5), (0x2024, 0x6), (0x2028, 0x7), (0x202C, 0x8)] 0b0000 = true := by decide

/-- SAVE %fp (n = 9: no registers) -/
theorem test_B5_46_save :
    ends (start 0x1B 0x1000 [(.fp, 0x600), (.sp, 0x2014), (.r8, 0x8)] [(0x2018, 0x77)]
      [0x10, 0x49])
      [(.fp, 0x2030), (.pc, 0x1002), (.sp, 0x2030), (.r8, 0x8)] [(0x2014, 0x600), (0x2018, 0x77)] 0b0000 = true := by decide

/-- RESTORE %r3 -/
theorem test_B5_47_restore :
    ends (start 0x1B 0x1000 [(.fp, 0x2030), (.sp, 0x3000)] [(0x2014, 0x600), (0x2018, 0x3), (0x201C, 0x4), (0x2020, 0x5), (0x2024, 0x6), (0x2028, 0x7), (0x202C, 0x8)]
      [0x18, 0x43])
      [(.fp, 0x600), (.pc, 0x1002), (.sp, 0x2014), (.r3, 0x3), (.r4, 0x4), (.r5, 0x5), (.r6, 0x6), (.r7, 0x7), (.r8, 0x8)] [(0x2014, 0x600), (0x2018, 0x3), (0x201C, 0x4), (0x2020, 0x5), (0x2024, 0x6), (0x2028, 0x7), (0x202C, 0x8)] 0b0000 = true := by decide

/-- PUSHW &-1 -/
theorem test_B6_1_pushw :
    ends (start 0x1B 0x1000 [(.sp, 0x1008)] []
      [0xA0, 0xFF])
      [(.pc, 0x1002), (.sp, 0x100C)] [(0x1008, 0xFFFFFFFF)] 0b1000 = true := by decide

/-- PUSHW %sp -/
theorem test_B6_2_pushw :
    ends (start 0x1B 0x1000 [(.sp, 0x1008)] []
      [0xA0, 0x4C])
      [(.pc, 0x1002), (.sp, 0x100C)] [(0x1008, 0x1008)] 0b0000 = true := by decide

/-- PUSHAW 0x14(%r6) -/
theorem test_B6_4_pushaw :
    ends (start 0x1B 0x1000 [(.sp, 0x100C), (.r6, 0x100)] []
      [0xE0, 0xC6, 0x14])
      [(.pc, 0x1003), (.sp, 0x1010), (.r6, 0x100)] [(0x100C, 0x114)] 0b0000 = true := by decide

/-- POPW %r0 -/
theorem test_B6_5_popw :
    ends (start 0x1B 0x1000 [(.sp, 0x1010)] [(0x100C, 0x114)]
      [0x20, 0x40])
      [(.pc, 0x1002), (.sp, 0x100C), (.r0, 0x114)] [(0x100C, 0x114)] 0b0000 = true := by decide

/-- POPW (%r2) -/
theorem test_B6_6_popw :
    ends (start 0x1B 0x1000 [(.sp, 0x100C), (.r2, 0x2000)] [(0x1008, 0xFFFFFFFF)]
      [0x20, 0x52])
      [(.pc, 0x1002), (.sp, 0x1008), (.r2, 0x2000)] [(0x1008, 0xFFFFFFFF), (0x2000, 0xFFFFFFFF)] 0b1000 = true := by decide

/-- NOP -/
theorem test_B6_9_nop :
    ends (start 0x1B 0x1000 [] []
      [0x70])
      [(.pc, 0x1001)] [] 0b0000 = true := by decide

/-- NOP2 -/
theorem test_B6_10_nop2 :
    ends (start 0x1B 0x1000 [] []
      [0x73, 0x30])
      [(.pc, 0x1002)] [] 0b0000 = true := by decide

/-- NOP3 -/
theorem test_B6_11_nop3 :
    ends (start 0x1B 0x1000 [] []
      [0x72, 0x14, 0x2E])
      [(.pc, 0x1003)] [] 0b0000 = true := by decide

/-! ## Block and string instructions, one iteration (95_test_vectors A2.11, A2.13, A2.14, B1.26 to B1.29) -/

theorem test_A2_11_movblw : stepHas (start 0x1B 0x1000 [(.r0, 0x100), (.r1, 0x200), (.r2, 3)] [(0x100, 5)] [0x30, 0x19])
    (fun t => decide (t.phase = .iterating .movblw) && reg t .pc == 0x1000 &&
      holds (.next t) [(.r0, 0x104), (.r1, 0x204), (.r2, 2)] [(0x200, 5)]) = true := by decide

theorem test_B1_26_movblw_end : ends (start 0x1B 0x1000 [(.r0, 0x100), (.r1, 0x200)] [(0x100, 5)] [0x30, 0x19])
    [(.pc, 0x1002), (.r0, 0x100), (.r1, 0x200), (.r2, 0)] [(0x200, 0)] 0 = true := by decide

theorem test_A2_13_strcpy : stepHas (start 0x1B 0x1000 [(.r0, 0x100), (.r1, 0x4000)] [(0x100, 0x0124E67F)] [0x30, 0x35])
    (fun t => decide (t.phase = .iterating .strcpy) &&
      holds (.next t) [(.r0, 0x101), (.r1, 0x4001), (.pc, 0x1000)] [(0x4000, 0x01000000)]) = true := by decide

theorem test_B1_28_strcpy_null : ends (start 0x1B 0x1000 [(.r0, 0x100), (.r1, 0x200)] [(0x200, 0x55000000)] [0x30, 0x35])
    [(.pc, 0x1002), (.r0, 0x100), (.r1, 0x200)] [(0x200, 0)] 0 = true := by decide

theorem test_B1_29_strend_null : ends (start 0x1B 0x1000 [(.r0, 0x400)] [] [0x30, 0x1F])
    [(.pc, 0x1002), (.r0, 0x400)] [] 0 = true := by decide

theorem test_A2_14_strend : stepHas (start 0x1B 0x1000 [(.r0, 0x400)] [(0x400, 0x44550122)] [0x30, 0x1F])
    (fun t => decide (t.phase = .iterating .strend) && holds (.next t) [(.r0, 0x401), (.pc, 0x1000)] []) = true := by decide

/-! ## Privilege, the PSW as an operand, operating system instructions (95_test_vectors B8, B9, C4) -/

theorem test_B9_16_read_pcbp : ends (start 0x1E1B 0x1000 [(.pcbp, 0x2000)] [] [0x84, 0x4D, 0x40])
    [(.r0, 0x2000), (.pc, 0x1003)] [] 0 = true := by decide

theorem test_B9_17_write_psw : ends (start 0x13F 0x1000 [(.r0, 0x20A07F)] [] [0x84, 0x40, 0x4B])
    [(.psw, 0x20A13F), (.pc, 0x1003)] [] 0b1000 = true := by decide

theorem test_B8_1_wait : stepHas (start 0x13F 0x1000 [] [] [0x2F])
    (fun t => decide (t.phase = .waiting) && holds (.next t) [(.pc, 0x1001), (.psw, 0x13F)] []) = true := by decide

theorem test_B8_3_enbvjmp : stepHas { start 0x3F 0x1000 [(.r0, 0x40000)] [] [0x30, 0x0D] with icache := [(0x2000, 7)] }
    (fun t => t.virtualMode && t.icache.isEmpty && reg t .pc == 0x40000) = true := by decide

theorem test_B8_4_disvjmp : stepHas { start 0x3F 0x1000 [(.r0, 0x800)] [] [0x30, 0x13] with virtualMode := true }
    (fun t => !t.virtualMode && reg t .pc == 0x800) = true := by decide

/-- The pins of level 3, and a device that answers 0x40 (95_test_vectors B8.6, 60_exceptions R537). -/
def levelThree : Inputs := { Inputs.idle with ipl := 0xC, intId := 0x40 }

theorem test_B8_6_intack : stepHas { start 0x1E03F 0x1000 [] [] [0x30, 0x2F] with inputs := levelThree }
    (fun t => holds (.next t) [(.r0, 0x100), (.pc, 0x1002), (.psw, 0x1E03F)] []) = true := by decide

theorem test_B8_8_movtrw : ends (start 0x1B 0x1000 [(.r1, 0x3000)] [(0x3000, 0x80000001)] [0x0C, 0x51, 0x40])
    [(.r0, 0x80000001), (.pc, 0x1003)] [] 0b1000 = true := by decide

theorem test_B8_11_retg :
    ends (start 0xA73F 0x1000 [(.sp, 0x3108)] [(0x3104, 0x00201E53), (0x3100, 0x5000)] [0x30, 0x45])
      [(.psw, 0x0020BF3B), (.pc, 0x5000), (.sp, 0x3100)] [] 0b1000 = true := by decide

/-- GATE (46_operating_system R475). -/
theorem test_R475_gate :
    ends (start 0x101F3F 0x5000 [(.sp, 0x3100), (.pcbp, 0x2000), (.r0, 4), (.r1, 0x10)]
        [(0x200C, 0x3000), (0x2010, 0x4000), (4, 0x6000), (0x6014, 0x7000)] [0x30, 0x61])
      [(.pc, 0x7000), (.psw, 0x73F), (.sp, 0x3108), (.r0, 4)] [(0x3100, 0x5002), (0x3104, 0x101F0A)] 0 = true := by decide

/-- CALLPS (46_operating_system R483). -/
theorem test_R483_callps :
    ends (start 0x13F 0x5000 [(.sp, 0x3100), (.pcbp, 0x2000), (.isp, 0x8000), (.r0, 0x9000)]
        [(0x9000, 0x1E080), (0x9004, 0xA000), (0x9008, 0xB000)] [0x30, 0xAC])
      [(.pc, 0xA000), (.psw, 0x1E03B), (.sp, 0xB000), (.pcbp, 0x900C), (.isp, 0x8004)]
      [(0x8000, 0x2000), (0x2000, 1), (0x2004, 0x5002), (0x2008, 0x3100)] 0 = true := by decide

/-- RETPS (46_operating_system R483). -/
theorem test_R483_retps :
    ends (start 0x1E03F 0xA000 [(.sp, 0xB000), (.pcbp, 0x900C), (.isp, 0x8004)]
        [(0x8000, 0x2000), (0x2000, 1), (0x2004, 0x5002), (0x2008, 0x3100)] [0x30, 0xC8])
      [(.pc, 0x5002), (.psw, 0x3B), (.sp, 0x3100), (.pcbp, 0x2000), (.isp, 0x8000)] [] 0 = true := by decide

/-- RETPS to a process with R set begins the block moves (46_operating_system R478, R480). -/
theorem test_retps_blocks :
    stepHas (start 0x13F 0xA000 [(.isp, 0x8004)] [(0x8000, 0x2000), (0x2000, 0x101), (0x2040, 3)] [0x30, 0xC8])
      (fun t => decide (t.phase = .blockMoves .retps false) && t.kernelForced &&
        holds (.next t) [(.r0, 0x2044), (.r2, 3), (.psw, 0x13B)] []) = true := by decide

/-! ## Exceptions, interrupts, reset -/

/-- WAIT at user level (60_exceptions R525). -/
theorem test_R525_wait_at_user_level :
    ends (start 0x1E3F 0x5000 [(.sp, 0x3100), (.pcbp, 0x2000)]
        [(0x200C, 0x3000), (0x2010, 0x4000), (0, 0x6000), (0x6054, 0x7100)] [0x2F])
      [(.pc, 0x7100), (.psw, 0x63F), (.sp, 0x3108)] [(0x3100, 0x5000), (0x3104, 0x1E53)] 0 = true := by decide

/-- BPT (95_test_vectors C4). -/
theorem test_C4_bpt :
    ends (start 0x101E3B 0x5000 [(.sp, 0x3100), (.pcbp, 0x2000), (.r0, 5)]
        [(0x200C, 0x3000), (0x2010, 0x4000), (0, 0x6000), (0x6074, 0x7100)] [0x2E])
      [(.pc, 0x7100), (.psw, 0x63F), (.sp, 0x3108), (.r0, 5)] [(0x3100, 0x5001), (0x3104, 0x101E73)] 0 = true := by decide

/-- EXTOP: ISC 3, the PC at it (95_test_vectors B6.14). -/
theorem test_B6_14_extop :
    ends (start 0x1E3B 0x1000 [(.sp, 0x3100), (.pcbp, 0x2000)]
        [(0x200C, 0x3000), (0x2010, 0x4000), (0, 0x6000), (0x601C, 0x7100)] [0x14, 0x2F])
      [(.pc, 0x7100), (.sp, 0x3108)] [(0x3100, 0x1000), (0x3104, 0x1E1B)] 0 = true := by decide

/-- A privileged register as destination at user level: ISC 15 (95_test_vectors B9.14). -/
theorem test_B9_14_privileged_register :
    ends (start 0x1E3B 0x1000 [(.sp, 0x3100), (.pcbp, 0x2000)]
        [(0x200C, 0x3000), (0x2010, 0x4000), (0, 0x6000), (0x607C, 0x7100)] [0x84, 0x40, 0x4B])
      [(.pc, 0x7100), (.sp, 0x3108)] [(0x3100, 0x1000), (0x3104, 0x1E7B)] 0 = true := by decide

/-- A word at an address that is no multiple of 4: ISC 5 (20_memory R82). -/
theorem test_misaligned_word :
    ends (start 0x1E3B 0x1000 [(.sp, 0x3100), (.pcbp, 0x2000), (.r0, 0x3002)]
        [(0x200C, 0x3000), (0x2010, 0x4000), (0, 0x6000), (0x602C, 0x7100)] [0x84, 0x50, 0x41])
      [(.pc, 0x7100), (.sp, 0x3108)] [(0x3100, 0x1000), (0x3104, 0x1E2B)] 0 = true := by decide

/-- SP outside the bounds: the stack exception saves the process, PC 0x5000 and PSW 0x1E06, R from the new image
(60_exceptions R525, last sentence). -/
theorem test_R525_stack_bound :
    ends (start 0x1E3F 0x5000 [(.sp, 0x2FFC), (.pcbp, 0x2000), (.isp, 0x8000)]
        [(0x200C, 0x3000), (0x2010, 0x4000), (0x88, 0x9000), (0x9004, 0xA000), (0x9008, 0xB000)] [0x2F])
      [(.pc, 0xA000), (.sp, 0xB000), (.pcbp, 0x9000), (.isp, 0x8004), (.psw, 0x3B)]
      [(0x8000, 0x2000), (0x2000, 0x1E06), (0x2004, 0x5000), (0x2008, 0x2FFC)] 0 = true := by decide

/-- A full interrupt (60_exceptions R537 (a)). -/
theorem test_R537_full_interrupt :
    ends { start 0x1E3F 0x5010 [(.sp, 0x3100), (.pcbp, 0x2000), (.isp, 0x8000)]
        [(0x18C, 0x9000), (0x9000, 0xA080), (0x9004, 0xA000), (0x9008, 0xB000)] [0x70] with inputs := levelThree }
      [(.pc, 0xA000), (.psw, 0xA03B), (.sp, 0xB000), (.pcbp, 0x900C), (.isp, 0x8004)]
      [(0x8000, 0x2000), (0x2000, 0x1E01), (0x2004, 0x5010), (0x2008, 0x3100)] 0 = true := by decide

/-- A quick interrupt (60_exceptions R537 (b)). -/
theorem test_R537_quick_interrupt :
    ends { start 0x01001E3F 0x5010 [(.sp, 0x3100)] [(0x4B4, 0x01000000), (0x4B8, 0x7200)] [0x70] with
        inputs := { Inputs.idle with ipl := 0xA, avec := true } }
      [(.pc, 0x7200), (.psw, 0x0101E63F), (.sp, 0x3108)] [(0x3100, 0x5010), (0x3104, 0x01001E0A)] 0 = true := by decide

/-- A masked request: the instruction runs (60_exceptions R537 (d)). -/
theorem test_R537_masked_interrupt :
    ends { start 0x7E3F 0x5010 [] [] [0x70] with inputs := levelThree } [(.pc, 0x5011), (.psw, 0x7E3F)] [] 0 = true := by
  decide

/-- The external reset sequence (95_test_vectors B10). -/
theorem test_B10_reset :
    stepHas { start 0x1E3F 0x5010 [(.r0, 7)] [(0x80, 0x400), (0x400, 0x1E09D), (0x404, 0x800), (0x408, 0x1000)] [] with
        phase := .resetting true, virtualMode := true, icache := [(0, 7)] }
      (fun t => !t.virtualMode && t.icache.isEmpty &&
        holds (.next t) [(.pcbp, 0x40C), (.psw, 0x1E01B), (.pc, 0x800), (.sp, 0x1000)] []) = true := by decide

theorem test_reset_psw : State.reset.regs.psw = 0x1B := by decide
theorem test_reset_memory_canonical : State.reset.mem.wf = true := by decide

/-! ## The coprocessor (95_test_vectors B7) -/

/-- A coprocessor that acknowledges and is done. -/
def answering (status d0 d1 : Word) : Inputs :=
  { Inputs.idle with
    cop := { ack := true, done := true, status := status, statusFault := false, d0 := d0, d1 := d1, d2 := 0 } }

theorem test_B7_1_spop :
    stepHas { start 0x1B 0x1000 [] [] [0x32, 0x78, 0x56, 0x34, 0x12] with inputs := answering 0x140000 0 0 }
      (fun t => decide (t.copBus = [.broadcast 0x12345678]) && flags t == 0b0101 && reg t .pc == 0x1005) = true := by decide

theorem test_B7_2_spoprs :
    stepHas { start 0x1B 0x1000 [(.r1, 0x3000)] [(0x3000, 0x11223344)] [0x22, 0x01, 0x00, 0x00, 0x00, 0x51] with
        inputs := answering 0 0 0 }
      (fun t => decide (t.copBus = [.operand 0x11223344, .broadcast 1]) && flags t == 0 && reg t .pc == 0x1006) = true := by
  decide

theorem test_B7_3_spopwd :
    ends { start 0x1B 0x1000 [(.r1, 0x3000)] [] [0x13, 0x0F, 0x00, 0x00, 0x00, 0x51] with
        inputs := answering 0x200000 0x11223344 0x55667788 }
      [(.pc, 0x1006)] [(0x3000, 0x11223344), (0x3004, 0x55667788)] 0b1000 = true := by decide

/-! ## The host's two questions -/

theorem test_table_word_movaw : decodeTableWord 8 0x04 = some (.movaw (op (.literal 0)) (op (.literal 0))) := by
  decide
theorem test_table_word_nop : decodeTableWord 8 0x70 = some .nop := by decide
theorem test_table_word_gate : decodeTableWord 16 0x6130 = some .gate := by decide
theorem test_fetch_word_nop : stepHas (State.reset.withFetchWord 8 0x70) (fun t => reg t .pc == 1) = true := by decide
theorem test_fetch_word_addw2 : stepHas (State.reset.withFetchWord 24 0x41059C)
    (fun t => holds (.next t) [(.pc, 3), (.r1, 5)] []) = true := by decide


/-- An explicit write of %psw that changes TE leaves the trace test open; one that does not change it does not, and the
read-only fields stay (10_state R42, R49). -/
theorem test_explicit_trace_enable :
    (writePsw 0x20000 State.reset).traceOpen = true ∧ (writePsw 0x1E000 State.reset).traceOpen = false ∧
      (writePsw 0x1E000 State.reset).regs.psw = 0x1E000 ||| (State.reset.regs.psw &&& 0x17F) := by decide


/-- A word fetched again over an old one: each of its bytes is new, old, or not held (20_memory R106, D4). -/
theorem test_cache_bytes_of_different_moments :
    let s := { start 0x1B 0x1000 [] [(0x1000, 0x01020304)] [] with
      icache := [(0x1000, 0xA1), (0x1001, 0xA2), (0x1002, 0xA3), (0x1003, 0xA4)] }
    let t := fillCache { Inputs.idle with cacheFill := [0x1000], cacheKeep := [0x1001, 0x1002], cacheDrop := [0x1002] } s
    [0x1000, 0x1001, 0x1002, 0x1003].map (cachedByte t) = [some 1, some 0xA2, none, some 4] := by decide

/-- ADDW2 %psw,%r0 overflows with OE 1: V stays 0 and no trap is taken; with %r1 as its source the V it sets traps
(30_encoding R152 step 8, 10_state R32). -/
theorem test_overflow_trap_needs_V :
    let p : Place := .register .r0
    let r := addResult .sword { bits := 0x7FFFFFFF, int := 0x7FFFFFFF } { bits := 1, int := 1 }
    overflowTrap p (readsPsw { mode := .register .psw }) r = false ∧
      overflowTrap p (readsPsw { mode := .register .r1 }) r = true ∧ overflowTrap (.register .psw) true r = true ∧
      stepHas (start 0x0040003F 0x1000 [(.r0, 0x7FFFFFFF)] [] [0x9C, 0x4B, 0x40])
        (fun t => reg t .pc == 0x1003 && flags t == 0) = true := by decide

/-- An explicit write of %psw keeps I (70_reset_and_hazards R611, 93 U11). -/
theorem test_explicit_write_keeps_I : (writePsw 0x80 State.reset).regs.psw = State.reset.regs.psw := by decide

/-- A byte read of %psw delivers the whole register (10_state R32): MOVB %psw,%r0; another register its low byte. -/
theorem test_byte_read_of_psw : ends (start 0x0001E03B 0x1000 [] [] [0x87, 0x4B, 0x40]) [(.pc, 0x1003), (.r0, 0x0001E03F)] [] 0 =
    true ∧ (registerValue .ubyte .r1 (start 0x3F 0 [(.r1, 0x1234)] [] [])).bits = 0x34 := by decide

/-- The new OE takes effect for the next instruction (10_state R49): a %psw destination whose new value has OE 0 traps by the
OE of before, which was 1. -/
theorem test_old_OE_traps :
    let s := start 0x00400000 0 [] [] []
    let r := addResult .sword { bits := 0x7FFFFFFF, int := 0x7FFFFFFF } { bits := 1, int := 1 }
    finish .sword (.register .psw) false 3 r s = .ok (complete true (advance 3 (writePsw r.value s))) := by
  rfl
/-! ## For each statement with hypotheses, what meets them

boot runs at kernel level and user the same at user level; their PCB is at 0x2000, with the stack bounds 0x3000 and 0x4000.
The boundary cases are the ends of a range: SP on a bound, the first and the last byte of a list, a count of 0. -/

/-- A machine between two instructions, with pointers to aligned words in its registers. -/
def boot : State :=
  start 0x1B 0x1000
    [(.r0, 0x3000), (.r1, 0x3008), (.r2, 2), (.r4, 0x80000000), (.fp, 0x302C), (.ap, 0x3010), (.sp, 0x3000),
      (.pcbp, 0x2000), (.isp, 0x8000)]
    [(0, 0x6000), (0x80, 0x9000), (0x84, 0x9000), (0x88, 0x9000), (0xCC, 0x9000), (0x200C, 0x3000), (0x2010, 0x4000), (0x3000, 0x12345678),
      (0x3008, 0x300C), (0x9000, 0x1E080), (0x9004, 0xA000), (0x9008, 0xB000), (0x9100, 0x1E180)] [0x70]

/-- The same at user level. -/
def user : State := { boot with regs := { boot.regs with psw := 0x1E1B } }

theorem boot_inv : boot.Inv := ⟨by decide, by decide, by decide, by decide, by decide⟩
theorem user_inv : user.Inv := ⟨by decide, by decide, by decide, by decide, by decide⟩
theorem boot_plain : Plain boot := ⟨rfl, rfl, rfl⟩

/-- A value read. -/
def sourceValue (t : OType) (r : Reg) : Value := registerValue t r boot

theorem source_register (cur : OType) (r : Reg) (h : r ≠ .pc) :
    SourceIs cur (op (.register r)) boot cur (sourceValue cur r) :=
  ⟨by revert h; cases r <;> decide, rfl, rfl⟩

theorem dest_register (cur : OType) : DestIs cur (op (.register .r1)) boot cur (.register .r1) :=
  ⟨rfl, fun _ _ _ => by decide, rfl, rfl, trivial⟩

theorem dest_psw (cur : OType) : DestIs cur (op (.register .psw)) boot cur (.register .psw) :=
  ⟨rfl, fun _ _ _ => by decide, rfl, rfl, trivial⟩

theorem dest_memory (cur : OType) : DestIs cur (op (.deferred .r0)) boot cur (.memory 0x3000) :=
  ⟨rfl, fun _ _ _ => by decide, rfl, rfl, rfl, fun _ => by cases cur <;> rfl⟩

theorem address_boot (role : Role) (h : role = .addr ∨ role = .addrPlain) : AddressIs role (op (.deferred .r0)) boot 0x3000 :=
  ⟨by rcases h with rfl | rfl <;> rfl, rfl⟩

/-- A destination that is also read, in both kinds of places. -/
theorem reads_back (cur : OType) :
    (∃ d, readPlace cur (.register .r1) boot = .ok (d, boot)) ∧ ∃ d, readPlace cur (.memory 0x3000) boot = .ok (d, boot) :=
  ⟨⟨_, rfl⟩, by cases cur <;> exact ⟨_, rfl⟩⟩

theorem test_witness_DecodeEncodeAgree :
    Instr.wellFormed .nop2 = true ∧ (Instr.movw (op (.register .r0)) (op (.absolute 0xFFFFFFFF))).wellFormed = true := by
  decide

theorem test_witness_UnassignedOpcodesAreIllegal :
    (0x00 : Byte) ∈ ([0x00, 0x01, 0xFD] : List Byte) ∧
      (0x00 : Byte) ∉ ([0x09, 0x0D, 0x13, 0x19, 0x1F, 0x2F, 0x35, 0x45, 0x61, 0xAC, 0xC8] : List Byte) ∧
      (0xFF : Byte) ∉ ([0x09, 0x0D, 0x13, 0x19, 0x1F, 0x2F, 0x35, 0x45, 0x61, 0xAC, 0xC8] : List Byte) := by decide

theorem test_witness_StepRunsTheDecodedInstruction :
    (sample boot).phase = .running ∧ (sample boot).inputs.resetr = false ∧ (sample boot).inputs.stop = false ∧
      interruptAccepted (sample boot) = false ∧ (sample boot).bus = [] ∧
      ∃ bytes held t rest, instructionStream (beginInstruction (sample boot)) = .ok (bytes, held, t) ∧ decode bytes = .ok (.nop, rest) :=
  ⟨rfl, rfl, rfl, by decide, rfl, _, _, _, _, rfl, rfl⟩

theorem test_witness_StepRunsTheStoredInstruction :
    Instr.wellFormed .nop = true ∧ boot.phase = .running ∧ boot.upcoming = [] ∧ boot.inputs.resetr = false ∧
      boot.inputs.stop = false ∧ interruptAccepted boot = false ∧ Plain boot ∧ boot.icache = [] ∧ boot.iqueue = [] ∧
      boot.cacheCorrupt = false ∧
      ∀ k, k < (encode .nop).length → peek boot.mem (boot.regs.pc + BitVec.ofNat 32 k) = (encode .nop).getD k 0 :=
  ⟨rfl, rfl, rfl, rfl, rfl, by decide, boot_plain, rfl, rfl, rfl, by decide⟩

/-- Bytes at the program counter that decode to no instruction, and a program counter whose fetch faults. -/
def undecodable (code : List Byte) (replies : List Reply) (bus : List BusEvent) : State :=
  { start 0x1B 0x1000 [] [] code with inputs := { Inputs.idle with replies := replies }, bus := bus }

/-- FAULT for every transaction of one address. -/
def faultAt (a : Word) : Reply :=
  { base := a, size := 1, statuses := 0xFFFF, levels := 0xF, sizes := 0xF, virtuals := 3, reads := true, writes := true,
    datum := none, answer := .fault }

/-- RESETR asserted before a transaction. -/
def cutOff : BusEvent := { writes := [], inputs := some { Inputs.idle with resetr := true } }

/-- Whether the bytes at the program counter are fetched and then refused with this error. -/
def refuses (s : State) (e : DecodeError) : Bool :=
  match instructionStream (beginInstruction (sample s)) with
  | .ok (bytes, _, _) =>
    match decode bytes with
    | .ok _ => false
    | .error x => decide (x = e)
  | .error _ => false

theorem test_witness_StepTakesTheDecodingFault :
    refuses (undecodable [0x00] [] []) .illegalOpcode = true ∧
      refuses (undecodable [0x84, 0xE1] [] []) .reservedDataType = true ∧
      refuses (undecodable [0x84, 0xE4, 0xE4] [] []) .invalidDescriptor = true ∧
      refuses (undecodable [0x70] [faultAt 0x1000] []) .fetchFault = true ∧
      (∃ e t, instructionStream (beginInstruction (sample (undecodable [0x70] [] [cutOff]))) = .error (e, t)) ∧
      (∀ r b, (sample (undecodable [] r b)).phase = .running ∧ (sample (undecodable [] r b)).inputs.resetr = false ∧
        (sample (undecodable [] r b)).inputs.stop = false ∧ interruptAccepted (sample (undecodable [] [] [])) = false) :=
  ⟨by decide, by decide, by decide, by decide, ⟨_, _, rfl⟩, fun _ _ => ⟨rfl, rfl, rfl, by decide⟩⟩

/-- MOVW &0x12345678,%r0 at 0x1002, seven bytes in two words, just after a discontinuity, with CD set and FAULT at 0x1004
for transactions of some status codes. -/
def spanning (statuses : BitVec 16) (blkftch : List (Word × Nat)) : State :=
  { start 0x80001B 0x1002 [] [] [0x84, 0x4F, 0x78, 0x56, 0x34, 0x12, 0x40] with
    inputs := { Inputs.idle with blkftch := blkftch, replies := [{ faultAt 0x1004 with statuses := statuses }] } }

/-- The second word of an instruction comes with the first (BLKFTCH), or by a prefetch (status 1101): FAULT for a fetch
(1110) does not meet it (20_memory R118). -/
theorem test_R118_second_word :
    holds (step (spanning 0x4000 [])) [(.r0, 0x12345678)] [] = true ∧
      holds (step (spanning 0x6000 [(0x1000, 4)])) [(.r0, 0x12345678)] [] = true := by decide

/-- A faulted prefetch is ignored; the fetch of the word when it is needed faults (20_memory R83): ISC 5, the PC at the
instruction. -/
theorem test_R83_faulted_prefetch :
    holds (step (spanning 0x2000 [])) [(.r0, 0x12345678)] [] = true ∧
      (match instructionStream (beginInstruction (sample (spanning 0x6000 []))) with
        | .ok (bytes, _, _) => decide (bytes = [some 0x84, some 0x4F, none])
        | .error _ => false) = true := by decide

/-- A request of level 1 at PSW IPL 0, and the same with STOP, waiting, or at PSW IPL 1. -/
def requesting (psw : Word) (stop : Bool) (phase : Phase) : State :=
  { start psw 0x1000 [] [] [0x70] with inputs := { Inputs.idle with ipl := 0xE, stop := stop }, phase := phase }

theorem test_witness_InterruptsAreMaskedByLevel :
    ({ Inputs.idle with resetr := true } : Inputs).resetr = true ∧
      (∀ p stop ph, (requesting p stop ph).inputs.resetr = false ∧ (requesting p stop ph).phase = ph ∧
        (requesting p stop ph).inputs.stop = stop) ∧
      (pswIpl (requesting 0x1B false .running).regs.psw).toNat < (~~~(requesting 0x1B false .running).inputs.ipl).toNat ∧
      ¬((requesting 0x201B false .running).inputs.nmint = true ∨
        (pswIpl (requesting 0x201B false .running).regs.psw).toNat <
          (~~~(requesting 0x201B false .running).inputs.ipl).toNat) :=
  ⟨rfl, fun _ _ _ => ⟨rfl, rfl, rfl⟩, by decide, by decide⟩

theorem test_witness_StepKeepsInvariant : boot.Inv ∧ ∃ t, step boot = .next t := ⟨boot_inv, _, rfl⟩

/-- boot where every write is answered with FAULT, or every access to one address. -/
def answered (replies : List Reply) : State := { boot with inputs := { Inputs.idle with replies := replies } }

/-- FAULT for every write. -/
def noWrites : Reply :=
  { base := 0, size := 0x100000000, statuses := 0xFFFF, levels := 0xF, sizes := 0xF, virtuals := 3, reads := false,
    writes := true, datum := none, answer := .fault }

/-- A device that drives 7 on every read. -/
def device : Reply := { noWrites with reads := true, writes := false, answer := .drive 7 none }

theorem test_witness_ExternalResetSequence :
    boot.inputs.replies = [] ∧ boot.bus = [] ∧ Aligned (wordAt boot 0x80) ∧ Exn.severity .systemData = .reset ∧
      Exn.systemData ≠ .externalReset := ⟨rfl, rfl, by unfold Aligned; decide, rfl, by decide⟩

/-- The reset sequence as it reads its vector and its PCB. -/
def resetting (replies : List Reply) : State := { forceKernel true (answered replies) with virtualMode := false }

theorem test_witness_ExternalResetSequence_faults :
    (∀ r, (answered r).bus = []) ∧ Unreadable (resetting [faultAt 0x80]) 0x80 ∧
      (∀ a ∈ ([0x9000, 0x9008] : List Word), memRead (resetting [faultAt a]) .operandFetch .word 0x80 = some 0x9000) ∧
      ContextUnreadable 0x9000 (resetting [faultAt 0x9000]) ∧ ContextUnreadable 0x9000 (resetting [faultAt 0x9008]) :=
  ⟨fun _ => rfl, rfl, by intro a ha; fin_cases ha <;> decide, ⟨0x9000, by decide, rfl⟩, ⟨0x9008, by decide, rfl⟩⟩

theorem test_witness_SourceModes :
    Reg.r0 ≠ .psw ∧ boot.bus = [] ∧ memRead boot .operandFetch (typeSize .sword) (reg boot .r0) = some 0x12345678 ∧
      memRead boot .operandFetch (typeSize .ubyte) (reg boot .r2) = some 0x60 := by decide

theorem test_witness_EffectiveAddresses :
    boot.bus = [] ∧ memRead boot .addressFetch .word 0x3008 = some 0x300C ∧
      memRead boot .addressFetch .word (reg boot .r0 + 0xFFFFFFFC) = some 0 ∧
      memRead boot .addressFetch .word (reg boot .r0 + BitVec.ofInt 32 (0x80 : BitVec 8).toInt) = some 0 ∧
      memRead boot .addressFetch .word (reg boot .r0 + BitVec.ofInt 32 (0xFF00 : BitVec 16).toInt) = some 0 := by decide

theorem test_witness_StoredDataReadBack :
    boot.mem.wf = true ∧ ¬covers .word 0xFFFFFFFE 2 ∧ covers .word 0xFFFFFFFE 1 ∧ ¬covers .byte 5 6 := by
  refine ⟨by decide, ?_, ?_, ?_⟩ <;> (unfold covers; decide)

theorem test_witness_MisalignedAccessesFault :
    (0xFFFFFFFF : Word).toNat % 2 ≠ 0 ∧ (0xFFFFFFFE : Word).toNat % 4 ≠ 0 ∧ (0xFFFFFFFE : Word).toNat % 2 = 0 ∧
      (0xFFFFFFFC : Word).toNat % 4 = 0 ∧ Plain boot ∧ (undecodable [] [] [cutOff]).bus = cutOff :: [] ∧
      misaligned .word 0xFFFFFFFC = false ∧ (undecodable [] [] [cutOff]).virtualMode = false ∧
      (cutOff.inputs.getD Inputs.idle).resetr = true ∧ Inputs.idle.resetr = false ∧ Inputs.idle.replies = [] :=
  ⟨by decide, by decide, by decide, by decide, boot_plain, rfl, by decide, rfl, rfl, rfl, rfl⟩

theorem test_witness_BadOperandsRaiseInvalidDescriptor :
    ∃ e ∈ (Instr.movw (op (.register .r0)) (op (.literal 1))).operands, e.1.accepts e.2 = false :=
  ⟨(.dst, op (.literal 1)), by decide, by decide⟩

theorem test_witness_PrivilegedRegistersTrap :
    isKernel user = false ∧ (∀ r ∈ [Reg.psw, .pcbp, .isp], (op (.register r)).mode = .register r) ∧
      (op (.register .psw)).ty = none ∧ (op (.register .r0)).wellFormed .src = true ∧
      (op (.deferred .r0)).wellFormed .addr = true := ⟨by decide, fun _ _ => rfl, rfl, by decide, by decide⟩

theorem test_witness_PrivilegedOpcodesTrap : isKernel user = false := by decide

/-- s with FAULT for one word. -/
def faulting (a : Word) (s : State) : State := { s with inputs := { s.inputs with replies := [faultAt a] } }

theorem answered_inv (r : List Reply) : (answered r).Inv := boot_inv

/-- The reads that fail, the writes that are refused, the addresses that cannot be formed. -/
theorem test_witness_MovesReportMemoryFaults :
    ((op (.absolute 0x3001)).wellFormed .src = true ∧ (op (.absolute 0x3001)).wellFormed .dst = true ∧
      Permitted (op (.absolute 0x3001)) boot ∧
      operandReads .sword [op (.absolute 0x3001)] (some (op (.register .r1), false)) boot = .error (.externalMemory, boot)) ∧
    (boot.Inv ∧ (answered [noWrites]).Inv ∧ (answered [noWrites]).bus = [] ∧
      (∃ vs, operandReads .sword [op (.register .r2)] (some (op (.absolute 0x3000), true)) (answered [noWrites]) =
          .ok (vs, some (.memory 0x3000), answered [noWrites]) ∧
        operandReads .sword [op (.register .r2)] (some (op (.absolute 0x3000), true)) (answered []) =
          .ok (vs, some (.memory 0x3000), answered []) ∧ ∀ v, vs.head? = some v → v.int ≠ 0) ∧
      (∀ x, writeReach (answered [noWrites]) .write .word 0x3000 x = none) ∧
      Storable .sword (.memory 0x3000) (answered [])) ∧
    effectiveAddress (.absoluteDeferred 0x3001) boot = .error (.externalMemory, boot) :=
  ⟨⟨by decide, by decide, (by intro r h; cases h), rfl⟩,
    ⟨boot_inv, answered_inv _, rfl, ⟨_, rfl, rfl, by intro v h; cases h; decide⟩, fun _ => rfl, rfl, fun _ => rfl⟩, rfl⟩

/-- A misaligned word to store to, and one in a division. -/
theorem test_witness_MovesReportMemoryFaults_misaligned :
    boot.Inv ∧ boot.bus = [] ∧ (op (.absolute 0x3001)).wellFormed .dst = true ∧
      (∃ v, operandReads .sword [op (.register .r2)] (some (op (.absolute 0x3001), false)) boot =
          .ok ([v], some (.memory 0x3001), boot)) ∧
      (∃ v w, operandReads .sword [op (.register .r2), op (.register .r4)] (some (op (.absolute 0x3001), false)) boot =
          .ok ([v, w], some (.memory 0x3001), boot) ∧ v.int ≠ 0) ∧
      operandReads .sword [] (some (op (.absolute 0x3001), false)) boot = .ok ([], some (.memory 0x3001), boot) ∧
      (∃ vs, operandReads .sword [op (.literal 1), op (.literal 2), op (.register .r4)] (some (op (.absolute 0x3001), false))
          boot = .ok (vs, some (.memory 0x3001), boot)) ∧
      ∀ x, writeReach boot .write .word 0x3001 x = none :=
  ⟨boot_inv, rfl, by decide, ⟨_, rfl⟩, ⟨_, _, rfl, by decide⟩, rfl, ⟨_, rfl⟩, fun _ => rfl⟩

/-- The same for the instructions with operands of their own, and the ends of a list of registers. -/
theorem test_witness_MovesReportMemoryFaults_special :
    AddressIs .addr (op (.absolute 0x3001)) boot 0x3001 ∧ memRead boot .moveTranslated .word 0x3001 = none ∧
      AddressIs .addr (op (.absolute 0x3000)) (answered [noWrites]) 0x3000 ∧
      resolve (.absolute 0x3000) (answered [noWrites]) = .ok (.memory 0x3000, answered [noWrites]) ∧
      readReach (answered [noWrites]) .moveTranslated .word 0x3000 = some (.memory 0x3000) ∧
      readSource .sword (.absolute 0x3001) boot = .error (.externalMemory, boot) ∧
      (∃ v, readSource .sword (.register .r0) (answered [noWrites]) = .ok (v, answered [noWrites])) ∧
      AddressIs .addrPlain (op (.deferred .r0)) (answered [noWrites]) 0x3000 ∧
      memRead (answered [faultAt 0x2FFC]) .operandFetch .word ((answered [faultAt 0x2FFC]).regs.sp - 4) = none ∧
      memRead (answered [noWrites]) .operandFetch .word ((answered [noWrites]).regs.sp - 4) = some 0 ∧
      (writeReach (answered [faultAt 0x3000]) .write .word (0x3000 + 4) 0x3010 = some (.memory 0x3004) ∧
        writeReach (answered [faultAt 0x3000]) .write .word 0x3000 0x1003 = none) ∧
      Reg.saveable .r0 = true ∧ Reg.saveable .fp = true ∧ 0 < 10 - Reg.fp.num.toNat ∧ 9 < 10 - Reg.r0.num.toNat ∧
      memRead (answered [faultAt 0x3010]) .operandFetch .word
        ((answered [faultAt 0x3010]).regs.fp - 28 + BitVec.ofNat 32 (4 * 0)) = none ∧
      memRead (answered [faultAt 0x3000]) .interlocked (typeSize .sword) 0x3000 = none ∧
      memRead (answered [noWrites]) .interlocked (typeSize .sword) 0x3000 = some 0x12345678 ∧ boot.regs.r2 ≠ 0 ∧
      memRead (answered [faultAt 0x3000]) .operandFetch .word (answered [faultAt 0x3000]).regs.r0 = none ∧
      memRead (answered [faultAt 0x3000]) .operandFetch .byte (answered [faultAt 0x3000]).regs.r0 = none ∧
      readReach (answered [noWrites, device]) .moveTranslated .word 0x3000 = some (.device 7) ∧
      writeReach (answered [noWrites, device]) .write .word 0x3000 7 = none ∧
      writeReach (answered [noWrites]) .interlocked (typeSize .sword) 0x3000 0x3000 = none ∧
      writeReach (answered [noWrites]) .write .word 0x3008 0x12345678 = none ∧
      writeReach (answered [noWrites]) .write .byte 0x3008 0x12 = none ∧
      (op (.absoluteDeferred 0x3001)).wellFormed .addrPlain = true ∧ (op (.absoluteDeferred 0x3001)).wellFormed .addr = true ∧
      (op (.absoluteDeferred 0x3001)).wellFormed .dstPlain = true := by
  refine ⟨⟨rfl, rfl⟩, by decide, ⟨rfl, rfl⟩, rfl, by decide, rfl, ⟨_, rfl⟩, ⟨rfl, rfl⟩, ?_⟩
  decide

/-- SAVE %r0 whose last word is refused, after nine words stored, and SAVE %fp whose only word is; RESTORE %r0 whose last
word is, after nine words read. -/
theorem test_witness_MovesReportMemoryFaults_lists :
    (∀ x : Word, (∀ j ∈ List.range 9, writeReach (answered [faultAt 0x3024]) .write .word
        ((answered [faultAt 0x3024]).regs.sp + BitVec.ofNat 32 (4 * j)) x =
          ((List.range 9).map fun i => Reached.memory (0x3000 + BitVec.ofNat 32 (4 * i)))[j]?) ∧
      writeReach (answered [faultAt 0x3024]) .write .word
        ((answered [faultAt 0x3024]).regs.sp + BitVec.ofNat 32 (4 * 9)) x = none) ∧
    (∀ x : Word, writeReach (answered [faultAt 0x3000]) .write .word
      ((answered [faultAt 0x3000]).regs.sp + BitVec.ofNat 32 (4 * 0)) x = none) ∧
    (∀ j ∈ List.range 9, memRead (answered [faultAt 0x3034]) .operandFetch .word
      ((answered [faultAt 0x3034]).regs.fp - 28 + BitVec.ofNat 32 (4 * j)) = (List.replicate 9 (0 : Word))[j]?) ∧
    memRead (answered [faultAt 0x3034]) .operandFetch .word
      ((answered [faultAt 0x3034]).regs.fp - 28 + BitVec.ofNat 32 (4 * 9)) = none :=
  ⟨fun _ => ⟨by intro j hj; fin_cases hj <;> rfl, rfl⟩, fun _ => rfl, by decide, by decide⟩

theorem test_witness_CompletionTakesOneTrap :
    ({ boot with pendingOverflow := true } : State).pendingOverflow = true ∧ boot.pendingOverflow = false ∧
      boot.traceOpen = false ∧ ({ boot with traceOpen := true } : State).traceOpen = true ∧
      (start 0x2001F 0 [] [] []).traceOpen = false ∧
      ¬(pswTe boot.regs.psw = true ∧ pswTm boot.regs.psw = true) ∧
      (pswTe (start 0x2001F 0 [] [] []).regs.psw = true ∧ pswTm (start 0x2001F 0 [] [] []).regs.psw = true) := by decide

/-- boot with a context on its stack. -/
def pushed (pc psw : Word) : State :=
  { boot with mem := writeData (writeData boot.mem .word boot.regs.sp pc) .word (boot.regs.sp + 4) psw }

theorem test_witness_NormalExceptionEntry :
    Exn.severity .integerZeroDivide = .normal ∧ Exn.severity .privilegedRegister = .normal ∧ boot.mem.wf = true ∧
      boot.regs.psw &&& 0xFC000000 = 0 ∧ Plain boot ∧ Aligned boot.regs.pcbp ∧ Aligned boot.regs.sp ∧
      wordAt boot (boot.regs.pcbp + 12) ≤ boot.regs.sp ∧ boot.regs.sp < wordAt boot (boot.regs.pcbp + 16) ∧
      Aligned (wordAt (pushed boot.regs.pc 0x7B) 0) :=
  ⟨rfl, rfl, by decide, by decide, boot_plain, rfl, rfl, by decide, by decide, by unfold Aligned; decide⟩

/-- boot, taking a trap: at kernel level, and at its own. -/
def trapping (kernel : Bool) (replies : List Reply) : State := forceKernel kernel (enterNormal .trace (answered replies))

/-- The table at 0x6000, the entry of trace at 0x6008: each access refused in turn, those before it granted. -/
theorem test_witness_NormalExceptionEntry_faults :
    Exn.severity .trace = .normal ∧ Unreadable (trapping true [faultAt 0x200C]) 0x200C ∧
      Unreadable (trapping true [faultAt 0x2010]) 0x2010 ∧
      (∀ a ∈ ([0x3000, 0x3004, 0, 0x6008, 0x600C] : List Word),
        memRead (trapping true [faultAt a]) .operandFetch .word 0x200C = some 0x3000 ∧
          memRead (trapping true [faultAt a]) .operandFetch .word 0x2010 = some 0x4000) ∧
      Unwritable (trapping false [faultAt 0x3000]) 0x3000 ∧ Writable (trapping false [faultAt 0x3004]) 0x3000 ∧
      Unwritable (trapping false [faultAt 0x3004]) 0x3004 ∧ Writable (trapping false [faultAt 0]) 0x3000 ∧
      Writable (trapping false [faultAt 0]) 0x3004 ∧ Unreadable (trapping true [faultAt 0]) 0 ∧
      (∀ x, writeReach (trapping false [faultAt 0x6008]) .write .word 0x3000 x = some (.memory 0x3000) ∧
        writeReach (trapping false [faultAt 0x600C]) .write .word 0x3004 x = some (.memory 0x3004)) ∧
      readReach (trapping true [faultAt 0x6008]) .operandFetch .word 0 = some (.memory 0) ∧
      wordAt boot 0 + (Exn.code .trace).zeroExtend 32 <<< 3 = 0x6008 ∧
      Unreadable (trapping true [faultAt 0x6008]) 0x6008 ∧ Unreadable (trapping true [faultAt 0x600C]) (0x6008 + 4) :=
  ⟨rfl, rfl, rfl, by intro a ha; fin_cases ha <;> decide, fun _ => rfl, fun _ => rfl, fun _ => rfl, fun _ => rfl,
    fun _ => rfl, rfl, fun _ => ⟨rfl, rfl⟩, rfl, by decide, rfl, rfl⟩

/-- Of the states with FAULT for one word: the accesses of a context save and of a context load, for the PCB at t, refused
at the ends of their lists, and granted. -/
def SwitchFaults (k : List Reply → State) (t : Word) : Prop :=
  (ContextRefused t (k [faultAt t]) ∧ ContextRefused t (k [faultAt 0x2000]) ∧ ContextRefused t (k [faultAt 0x2008])) ∧
    ∀ a ∈ [t + 4, t + 8], ContextGranted t (k [faultAt a]) ∧ ContextUnreadable t (k [faultAt a])

/-- What a transaction of k does is what it does of boot at kernel level. -/
theorem switch_faults (k : List Reply → State) (t : Word) (ht : t = 0x9000 ∨ t = 0x9100)
    (h : ∀ r, (k r).regs.pcbp = 0x2000 ∧
      (∀ st a, memRead (k r) st .word a = memRead (forceKernel true (answered r)) st .word a) ∧
      ∀ st a v, writeReach (k r) st .word a v = writeReach (forceKernel true (answered r)) st .word a v) :
    SwitchFaults k t := by
  simp only [SwitchFaults, ContextRefused, ContextGranted, ContextUnreadable, Unreadable, Unwritable, Writable, pcbWord,
    h]
  rcases ht with rfl | rfl <;>
    refine ⟨⟨.inl rfl, .inr ⟨0, by decide, fun _ => rfl⟩, .inr ⟨2, by decide, fun _ => rfl⟩⟩,
      fun a ha => ⟨⟨?_, fun j hj v => ?_⟩, a, List.mem_cons_of_mem _ ha, ?_⟩⟩ <;>
    fin_cases ha
  all_goals first | decide | (fin_cases hj <;> rfl)

/-- A statement about each of three addresses, or of four. -/
theorem all_three {p : Word → Prop} {a b c : Word} (ha : p a) (hb : p b) (hc : p c) : ∀ x ∈ [a, b, c], p x := by
  simp [ha, hb, hc]

theorem all_four {p : Word → Prop} {a b c d : Word} (ha : p a) (hb : p b) (hc : p c) (hd : p d) :
    ∀ x ∈ [a, b, c, d], p x := by
  simp [ha, hb, hc, hd]

/-- boot with a word that names the PCB at 0x9100, whose image has R set. -/
def redirected (a : Word) : State := { boot with mem := writeData boot.mem .word a 0x9100 }

theorem test_witness_StackBoundRipples :
    Exn.severity .breakpoint = .normal ∧ Plain boot ∧ Aligned boot.regs.pcbp ∧
      (setReg .sp 0x2FFC boot).regs.sp < wordAt boot (boot.regs.pcbp + 12) ∧
      wordAt boot (boot.regs.pcbp + 16) ≤ (setReg .sp 0x4000 boot).regs.sp ∧
      Exn.severity .stackBound = .stack ∧ Exn.severity .interruptIdFetch = .stack ∧ boot.mem.wf = true ∧
      boot.regs.psw &&& 0xFC000000 = 0 ∧ Aligned boot.regs.isp ∧ wordAt boot 0x88 = 0x9000 ∧ Aligned 0x9000 ∧
      pswR (wordAt boot 0x9000) = false ∧
      (∀ x ∈ ([0x9000, 0x9000 + 4, 0x9000 + 8] : List Word),
        x ≠ boot.regs.isp ∧ ¬(x - boot.regs.pcbp).toNat < 12) ∧
      ¬(boot.regs.isp - boot.regs.pcbp).toNat < 12 ∧
      wordAt (redirected 0x88) 0x88 = 0x9100 ∧ pswR (wordAt (redirected 0x88) 0x9100) = true ∧
      (∀ x ∈ ([0x9100, 0x9100 + 4, 0x9100 + 8] : List Word),
        x ≠ boot.regs.isp ∧ ¬(x - boot.regs.pcbp).toNat < 64) ∧ ¬(boot.regs.isp - boot.regs.pcbp).toNat < 64 :=
  ⟨rfl, boot_plain, rfl, by decide, by decide, rfl, rfl, by decide, by decide, rfl, by decide, rfl, by decide,
    all_three (by decide) (by decide) (by decide), by decide, by decide, by decide,
    all_three (by decide) (by decide) (by decide), by decide⟩

theorem test_witness_StackBoundRipples_faults :
    let k := fun r => forceKernel true (recordCause .stackBound (answered r))
    Unreadable (k [faultAt 0x88]) 0x88 ∧ memRead (k [faultAt 0x8000]) .operandFetch .word 0x88 = some 0x9000 ∧
      Unwritable (k [faultAt 0x8000]) 0x8000 ∧ Writable (k [faultAt 0x2000]) 0x8000 ∧ SwitchFaults k 0x9000 :=
  ⟨rfl, by decide, fun _ => rfl, fun _ => rfl,
    switch_faults _ _ (.inl rfl) fun _ => ⟨rfl, fun _ _ => rfl, fun _ _ _ => rfl⟩⟩

theorem test_witness_ProcessExceptionEntry :
    Exn.severity .oldPcb = .process ∧ boot.mem.wf = true ∧ boot.regs.psw &&& 0xFC000000 = 0 ∧ Plain boot ∧
      Aligned boot.regs.isp ∧ Aligned (wordAt boot 0x84) ∧ boot.regs.isp ≠ wordAt boot 0x84 ∧
      boot.regs.isp ≠ wordAt boot 0x84 + 4 ∧ boot.regs.isp ≠ wordAt boot 0x84 + 8 :=
  ⟨rfl, by decide, by decide, boot_plain, rfl, by unfold Aligned; decide, by decide, by decide, by decide⟩

theorem test_witness_ProcessExceptionEntry_faults :
    let k := fun r => forceKernel true (recordCause .oldPcb (answered r))
    Unreadable (k [faultAt 0x84]) 0x84 ∧ memRead (k [faultAt 0x8000]) .operandFetch .word 0x84 = some 0x9000 ∧
      Unwritable (k [faultAt 0x8000]) 0x8000 ∧ Writable (k [faultAt 0x9000]) 0x8000 ∧
      ContextUnreadable 0x9000 (k [faultAt 0x9000]) ∧ ContextUnreadable 0x9000 (k [faultAt 0x9008]) :=
  ⟨rfl, by decide, fun _ => rfl, fun _ => rfl, ⟨0x9000, by decide, rfl⟩, ⟨0x9008, by decide, rfl⟩⟩

theorem test_witness_ContextSave :
    boot.mem.wf = true ∧ boot.regs.psw &&& 0xFC000000 = 0 ∧ Plain boot ∧ Aligned boot.regs.pcbp ∧ Aligned 0x9000 ∧
      (0x9000 : Word) ≠ boot.regs.pcbp + 4 ∧ pswR (wordAt boot 0x9000) = false ∧ Aligned 0x9100 ∧
      (0x9100 : Word) ≠ boot.regs.pcbp + 4 ∧ pswR (wordAt boot 0x9100) = true :=
  ⟨by decide, by decide, boot_plain, rfl, rfl, by decide, by decide, rfl, by decide, by decide⟩

theorem test_witness_ContextSave_faults :
    let k := fun r => forceKernel true (answered r)
    (∀ r, (k r).bus = [] ∧ (k r).kernelForced = true) ∧ SwitchFaults k 0x9000 ∧
      (∀ x, writeReach (k [faultAt 0x2014]) .write .word 0x2004 x = some (.memory 0x2004)) ∧
      readReach (k [faultAt 0x2014]) .operandFetch .word 0x9100 = some (.memory 0x9100) ∧
      Unwritable (k [faultAt 0x2014]) (pcbWord (k [faultAt 0x2014]) 5) ∧
      Unwritable (k [faultAt 0x203C]) (pcbWord (k [faultAt 0x203C]) 15) :=
  ⟨fun _ => ⟨rfl, rfl⟩, switch_faults _ _ (.inl rfl) fun _ => ⟨rfl, fun _ _ => rfl, fun _ _ _ => rfl⟩, fun _ => rfl, rfl,
    fun _ => rfl, fun _ => rfl⟩

theorem test_witness_QuickInterruptEntry :
    (start 0x0100001B 0x1000 [(.sp, 0x3000)] [] []).Inv ∧ Plain (start 0x0100001B 0x1000 [(.sp, 0x3000)] [] []) ∧
      Aligned (start 0x0100001B 0x1000 [(.sp, 0x3000)] [] []).regs.sp ∧
      pswQie (start 0x0100001B 0x1000 [(.sp, 0x3000)] [] []).regs.psw = true :=
  ⟨⟨by decide, by decide, by decide, by decide, by decide⟩, ⟨rfl, rfl, rfl⟩, rfl, by decide⟩

/-- boot about to take an interrupt of level 0 with AVEC (its ID is 16), QIE as in the PSW. -/
def vectored (psw : Word) (avec : Bool) (replies : List Reply) : State :=
  { answered replies with
    regs := { boot.regs with psw := psw }
    inputs := { Inputs.idle with replies := replies, avec := avec, intopt := false } }

theorem vectored_id (psw : Word) (r : List Reply) :
    interruptId (vectored psw true r) = .ok (16, vectored psw true r) := by
  rw [← (by decide : ((BitVec.ofBool true ++ ~~~(0xF : BitVec 4)).zeroExtend 32 : Word) = 16)]
  rfl

/-- The entry of ID 16 is at 0x50C. -/
theorem test_witness_QuickInterruptEntry_faults :
    let u := vectored 0x0100001B true
    (reply (vectored 0x0100001B false [faultAt 0x43]) .interruptAck .byte .read
        (acknowledgeAddress (vectored 0x0100001B false [faultAt 0x43])) 0 = some .fault ∧
      (vectored 0x0100001B false [faultAt 0x43]).inputs.nmint = false ∧
      (vectored 0x0100001B false [faultAt 0x43]).inputs.avec = false) ∧
    (∀ r, interruptId (u r) = .ok (16, u r) ∧ pswQie (u r).regs.psw = true) ∧
      Unwritable (u [faultAt 0x3000]) 0x3000 ∧ Writable (u [faultAt 0x3004]) 0x3000 ∧
      Unwritable (u [faultAt 0x3004]) 0x3004 ∧ Writable (u [faultAt 0x50C]) 0x3004 ∧
      Unreadable (forceKernel true (u [faultAt 0x50C])) (0x48C + 16 * 8) ∧
      Unreadable (forceKernel true (u [faultAt 0x510])) (0x48C + 16 * 8 + 4) :=
  ⟨⟨by decide, rfl, rfl⟩, fun r => ⟨vectored_id _ r, (by decide : pswQie 0x0100001B = true)⟩, fun _ => rfl, fun _ => rfl, fun _ => rfl, fun _ => rfl, rfl, rfl⟩

/-- A nonmaskable request with the handler's PCB at 0x9000. -/
def nonmaskable : State :=
  { boot with mem := poke (poke boot.mem 0x8E 0x90) 0x8F 0x00, inputs := { Inputs.idle with nmint := true } }

/-- The same with the PCB at 0x9100. -/
def nonmaskableR : State := { nonmaskable with mem := poke nonmaskable.mem 0x8E 0x91 }

theorem test_witness_FullInterruptEntry :
    (nonmaskable.Inv ∧ Plain nonmaskable ∧ Aligned nonmaskable.regs.isp ∧ Aligned nonmaskable.regs.pcbp ∧
      pswQie nonmaskable.regs.psw = false ∧ wordAt nonmaskable (0x8C + 0 * 4) = 0x9000 ∧ Aligned 0x9000 ∧
      pswR (wordAt nonmaskable 0x9000) = false ∧
      (∀ x ∈ ([0x8000, 0x2000, 0x2000 + 4, 0x2000 + 8] : List Word), x ∉ ([0x9000, 0x9000 + 4, 0x9000 + 8] : List Word)) ∧
      (0x8000 : Word) ∉ ([0x2000, 0x2000 + 4, 0x2000 + 8] : List Word)) ∧
    nonmaskableR.Inv ∧ Plain nonmaskableR ∧ nonmaskableR.regs.isp = 0x8000 ∧ nonmaskableR.regs.pcbp = 0x2000 ∧
      wordAt nonmaskableR (0x8C + 0 * 4) = 0x9100 ∧ Aligned 0x9100 ∧ pswR (wordAt nonmaskableR 0x9100) = true ∧
      (∀ x ∈ ([0x9100, 0x9100 + 4, 0x9100 + 8, processPcbp 0x9100 (wordAt nonmaskableR 0x9100) + 64] : List Word),
        x ≠ 0x8000 ∧ ¬(x - 0x2000).toNat < 64) ∧ ¬((0x8000 : Word) - 0x2000).toNat < 64 :=
  ⟨⟨⟨by decide, by decide, by decide, by decide, by decide⟩, ⟨rfl, rfl, rfl⟩, rfl, rfl, by decide, by decide, rfl,
      by decide, all_four (by decide) (by decide) (by decide) (by decide), by decide⟩,
    ⟨by decide, by decide, by decide, by decide, by decide⟩, ⟨rfl, rfl, rfl⟩, rfl, rfl, by decide, rfl, by decide,
    all_four (by decide) (by decide) (by decide) (by decide), by decide⟩

/-- The word of ID 16 is at 0xCC; the PCB it names is at 0x9000. -/
theorem test_witness_FullInterruptEntry_faults :
    let u := vectored 0x1B true
    let k := fun r => forceKernel true (u r)
    (∀ r, interruptId (u r) = .ok (16, u r) ∧ pswQie (u r).regs.psw = false) ∧
      Unreadable (k [faultAt 0xCC]) (0x8C + 16 * 4) ∧
      memRead (k [faultAt 0x8000]) .operandFetch .word (0x8C + 16 * 4) = some 0x9000 ∧
      Unwritable (k [faultAt 0x8000]) 0x8000 ∧ Writable (k [faultAt 0x2000]) 0x8000 ∧
      ContextRefused 0x9000 (k [faultAt 0x9000]) ∧ ContextRefused 0x9000 (k [faultAt 0x2008]) ∧
      ContextGranted 0x9000 (k [faultAt 0x9008]) ∧ ContextUnreadable 0x9000 (k [faultAt 0x9008]) :=
  ⟨fun r => ⟨vectored_id _ r, (by decide : pswQie 0x1B = false)⟩, rfl, by decide, fun _ => rfl, fun _ => rfl, .inl rfl,
    .inr ⟨2, by decide, fun _ => rfl⟩, ⟨by unfold Unreadable; decide, by intro j hj v; fin_cases hj <;> rfl⟩,
    0x9008, by decide, rfl⟩

/-! The instructions with a destination: the three kinds of places. -/

theorem test_witness_MoveResult :
    boot.Inv ∧ SourceIs .ubyte (op (.register .r0)) boot .ubyte (sourceValue .ubyte .r0) ∧
      DestIs .ubyte (op (.register .r1)) boot .ubyte (.register .r1) ∧
      DestIs .ubyte (op (.register .psw)) boot .ubyte (.register .psw) ∧
      DestIs .ubyte (op (.deferred .r0)) boot .ubyte (.memory 0x3000) :=
  ⟨boot_inv, source_register _ _ (by decide), dest_register _, dest_psw _, dest_memory _⟩

theorem test_witness_NegateResult :
    boot.Inv ∧ SourceIs .sword (op (.register .r4)) boot .sword (sourceValue .sword .r4) ∧
      DestIs .sword (op (.deferred .r0)) boot .sword (.memory 0x3000) :=
  ⟨boot_inv, source_register _ _ (by decide), dest_memory _⟩

theorem test_witness_AddressMoves :
    boot.Inv ∧ boot.bus = [] ∧ AddressIs .addr (op (.deferred .r0)) boot 0x3000 ∧
      DestIs (typeAt .sword (op (.deferred .r0))) (op (.register .r1)) boot .sword (.register .r1) ∧
      readReach boot .moveTranslated .word 0x3000 = some (.memory 0x3000) ∧
      readReach (answered [device]) .moveTranslated .word 0x3000 = some (.device 7) :=
  ⟨boot_inv, rfl, address_boot _ (.inl rfl), dest_register _, by decide, by decide⟩

theorem test_witness_SwapResult :
    boot.Inv ∧ boot.bus = [] ∧ AddressIs .addrPlain (op (.deferred .r0)) boot 0x3000 ∧
      memRead boot .interlocked (typeSize .shalf) 0x3000 = some 0x1234 ∧
      writeReach boot .interlocked (typeSize .shalf) 0x3000 boot.regs.r0 = some (.memory 0x3000) :=
  ⟨boot_inv, rfl, address_boot _ (.inr rfl), by decide, by decide⟩

/-- Two entries on the bus: the first writes the halfword that is about to be read. -/
theorem test_witness_SwapResult_bus :
    let b : BusEvent := { writes := [(0x3000, 0x99)], inputs := none }
    let s := { boot with bus := [b, cutOff] }
    let t := { s with bus := [cutOff], mem := busWritten s.mem b.writes, inputs := b.inputs.getD s.inputs }
    s.Inv ∧ s.bus = b :: [cutOff] ∧ t.inputs.resetr = false ∧ AddressIs .addrPlain (op (.deferred .r0)) s 0x3000 ∧
      memRead t .interlocked (typeSize .shalf) 0x3000 = some 0x9934 ∧
      writeReach t .interlocked (typeSize .shalf) 0x3000 s.regs.r0 = some (.memory 0x3000) :=
  ⟨boot_inv, rfl, rfl, ⟨rfl, rfl⟩, by decide, by decide⟩

theorem test_witness_BlockAndStringIterations :
    boot.Inv ∧ (setReg .r2 0 boot).Inv ∧ (setReg .r2 0 boot).regs.r2 = 0 ∧ boot.regs.r2 ≠ 0 ∧ boot.bus = [] ∧
      memRead boot .operandFetch .word boot.regs.r0 = some 0x12345678 ∧
      writeReach boot .write .word boot.regs.r1 0x12345678 = some (.memory 0x3008) ∧
      memRead boot .operandFetch .byte boot.regs.r0 = some 0x12 ∧
      writeReach boot .write .byte boot.regs.r1 0x12 = some (.memory 0x3008) ∧
      memRead (setReg .r0 0x3FFF boot) .operandFetch .byte 0x3FFF = some 0 ∧
      writeReach boot .write .byte boot.regs.r1 0 = some (.memory 0x3008) :=
  ⟨boot_inv, ⟨by decide, by decide, by decide, by decide, by decide⟩, by decide, by decide, rfl, by decide, by decide,
    by decide, by decide, by decide, by decide⟩

theorem test_witness_BitFieldResult :
    boot.Inv ∧ SourceIs .ubyte (op (.register .r2)) boot .ubyte (sourceValue .ubyte .r2) ∧
      SourceIs .ubyte (op (.register .r4)) boot .ubyte (sourceValue .ubyte .r4) ∧
      DestIs .ubyte (op (.register .r1)) boot .ubyte (.register .r1) ∧
      (∃ d, readPlace .ubyte (.register .r1) boot = .ok (d, boot)) :=
  ⟨boot_inv, source_register _ _ (by decide), source_register _ _ (by decide), dest_register _, (reads_back _).1⟩

theorem test_witness_AddSubtractResult :
    boot.Inv ∧ SourceIs .shalf (op (.register .r2)) boot .shalf (sourceValue .shalf .r2) ∧
      DestIs .shalf (op (.register .r1)) boot .shalf (.register .r1) ∧
      DestIs .shalf (op (.deferred .r0)) boot .shalf (.memory 0x3000) ∧
      (∃ d, readPlace .shalf (.register .r1) boot = .ok (d, boot)) ∧ ∃ d, readPlace .shalf (.memory 0x3000) boot = .ok (d, boot) :=
  ⟨boot_inv, source_register _ _ (by decide), dest_register _, dest_memory _, reads_back _⟩

theorem test_witness_IncrementDecrement :
    boot.Inv ∧ DestIs .sword (op (.deferred .r0)) boot .sword (.memory 0x3000) ∧
      ∃ d, readPlace .sword (.memory 0x3000) boot = .ok (d, boot) :=
  ⟨boot_inv, dest_memory _, (reads_back _).2⟩

theorem test_witness_MultiplyDivideTwoAddress :
    boot.Inv ∧ SourceIs .sword (op (.register .r2)) boot .sword (sourceValue .sword .r2) ∧
      DestIs .sword (op (.register .r1)) boot .sword (.register .r1) ∧
      (∃ d, readPlace .sword (.register .r1) boot = .ok (d, boot)) ∧ (sourceValue .sword .r2).int ≠ 0 :=
  ⟨boot_inv, source_register _ _ (by decide), dest_register _, (reads_back _).1, by decide⟩

theorem test_witness_MultiplyDivideThreeAddress :
    boot.Inv ∧ SourceIs .sword (op (.register .r2)) boot .sword (sourceValue .sword .r2) ∧
      SourceIs .sword (op (.register .r4)) boot .sword (sourceValue .sword .r4) ∧
      DestIs .sword (op (.register .r1)) boot .sword (.register .r1) ∧ (sourceValue .sword .r2).int ≠ 0 ∧
      fits .sword ((sourceValue .sword .r4).int * (sourceValue .sword .r2).int) = false ∧
      ¬(OType.sword = .sword ∧ ((sourceValue .sword .r4).int * (sourceValue .sword .r2).int).natAbs < 2 ^ 32) ∧
      fits .sword ((sourceValue .sword .r2).int * (sourceValue .sword .r2).int) = true :=
  ⟨boot_inv, source_register _ _ (by decide), source_register _ _ (by decide), dest_register _, by decide, by decide,
    by decide, by decide⟩

theorem test_witness_DivisionByZeroTraps :
    SourceIs .sword (op (.register .r3)) boot .sword (sourceValue .sword .r3) ∧
      DestIs .sword (op (.register .r1)) boot .sword (.register .r1) ∧
      (∃ d, readPlace .sword (.register .r1) boot = .ok (d, boot)) ∧ (sourceValue .sword .r3).int = 0 :=
  ⟨source_register _ _ (by decide), dest_register _, (reads_back _).1, by decide⟩

theorem test_witness_ShiftResult :
    boot.Inv ∧ SourceIs .ubyte (op (.register .r2)) boot .ubyte (sourceValue .ubyte .r2) ∧
      SourceIs .ubyte (op (.register .r4)) boot .ubyte (sourceValue .ubyte .r4) ∧
      DestIs .ubyte (op (.register .r1)) boot .ubyte (.register .r1) :=
  ⟨boot_inv, source_register _ _ (by decide), source_register _ _ (by decide), dest_register _⟩

theorem test_witness_LogicResult :
    boot.Inv ∧ SourceIs .ubyte (op (.register .r2)) boot .ubyte (sourceValue .ubyte .r2) ∧
      DestIs .ubyte (op (.deferred .r0)) boot .ubyte (.memory 0x3000) ∧
      ∃ d, readPlace .ubyte (.memory 0x3000) boot = .ok (d, boot) :=
  ⟨boot_inv, source_register _ _ (by decide), dest_memory _, (reads_back _).2⟩

theorem test_witness_CompareAndTest :
    boot.Inv ∧ SourceIs .ubyte (op (.register .r2)) boot .ubyte (sourceValue .ubyte .r2) ∧
      SourceIs .ubyte (op (.register .psw)) boot .ubyte (sourceValue .ubyte .psw) :=
  ⟨boot_inv, source_register _ _ (by decide), source_register _ _ (by decide)⟩

theorem test_witness_ClearResult :
    boot.Inv ∧ DestIs .shalf (op (.deferred .r0)) boot .shalf (.memory 0x3000) ∧
      DestIs .shalf (op (.register .psw)) boot .shalf (.register .psw) ∧ Role.dst.accepts (op (.literal 0)) = false ∧
      user.Inv ∧ (op (.register .psw)).wellFormed .dst = true ∧ ¬Permitted (op (.register .psw)) user ∧
      resolve (.absoluteDeferred 0x3001) boot = .error (.externalMemory, boot) ∧
      resolve (.absolute 0x3000) (answered [noWrites]) = .ok (.memory 0x3000, answered [noWrites]) :=
  ⟨boot_inv, dest_memory _, dest_psw _, by decide, user_inv, by decide,
    fun h => absurd (h .psw rfl rfl) (by decide), rfl, rfl⟩

/-! Program control. -/

theorem test_witness_BranchResult :
    (flags boot).getLsbD 2 = false ∧ (flags (setFlags 0b0100 boot)).getLsbD 2 = true := by decide

theorem test_witness_ReturnResult :
    boot.bus = [] ∧ memRead boot .operandFetch .word (boot.regs.sp - 4) = some 0 ∧ (flags boot).getLsbD 2 = false ∧
      (flags (setFlags 0b0100 boot)).getLsbD 2 = true ∧
      memRead (setReg .sp 0x3001 boot) .operandFetch .word ((setReg .sp 0x3001 boot).regs.sp - 4) = none := by decide

theorem test_witness_JumpsAndSubroutineCalls :
    AddressIs .addr (op (.deferred .r0)) boot 0x3000 ∧ boot.Inv ∧ boot.bus = [] ∧
      (∀ x, writeReach boot .write .word boot.regs.sp x = some (.memory 0x3000)) ∧
      AddressIs .addrPlain (op (.deferred .r0)) boot 0x3000 :=
  ⟨address_boot _ (.inl rfl), boot_inv, rfl, fun _ => rfl, address_boot _ (.inr rfl)⟩

theorem test_witness_CallAndReturn :
    boot.Inv ∧ Plain boot ∧ Aligned boot.regs.sp ∧ AddressIs .addrPlain (op (.deferred .r0)) boot 0x3000 ∧
      AddressIs .addrPlain (op (.absolute 0x7000)) boot 0x7000 ∧
      memRead boot .operandFetch .word (boot.regs.sp - 4) = some 0 ∧
      memRead boot .operandFetch .word (boot.regs.sp - 8) = some 0 ∧
      memRead (setReg .sp 0x3002 boot) .operandFetch .word ((setReg .sp 0x3002 boot).regs.sp - 4) = none :=
  ⟨boot_inv, boot_plain, rfl, address_boot _ (.inr rfl), ⟨rfl, rfl⟩, by decide, by decide, by decide⟩

/-- boot about to be cut off before its second transaction, with another master's write just before. -/
def interrupted : State :=
  { boot with bus := [{ writes := [], inputs := none }, { cutOff with writes := [(0x3000, 0x99)] }] }

theorem test_witness_CallAndReturn_reset :
    interrupted.virtualMode = false ∧ interrupted.inputs.replies = [] ∧ interrupted.inputs.resetr = false ∧
      Aligned interrupted.regs.sp ∧ ({ Inputs.idle with resetr := true } : Inputs).resetr = true ∧
      interrupted.bus = [{ writes := [], inputs := none },
        { writes := [(0x3000, 0x99)], inputs := some { Inputs.idle with resetr := true } }] ∧
      (op (.deferred .r0)).wellFormed .addrPlain = true ∧ (op (.absolute 0x7000)).wellFormed .addrPlain = true ∧
      effectiveAddress (.deferred .r0) interrupted = .ok (0x3000, interrupted) ∧
      effectiveAddress (.absolute 0x7000) interrupted = .ok (0x7000, interrupted) :=
  ⟨rfl, rfl, rfl, rfl, rfl, rfl, rfl, rfl, rfl, rfl⟩

/-- A reset between the two stores of CALL: AP is stored, the return address is not, the other master's byte stays
(70_reset_and_hazards R600, 20_memory R101). -/
theorem test_R600_reset_inside_call :
    (match exec (.call (op (.deferred .r0)) (op (.absolute 0x7000))) interrupted with
      | .next t => decide (t.phase = .resetting true) && wordAt t 0x3004 == 0x3010 && wordAt t 0x3000 == 0x99345678 &&
        reg t .sp == 0x3000 && reg t .pc == 0x1000
      | _ => false) = true := by decide

/-- Another master's write between the two operand reads of an instruction is seen by the second (20_memory R101). -/
theorem test_R101_write_between_reads :
    (match exec (.cmpw (op (.deferred .r0)) (op (.deferred .r0)))
        { boot with bus := [{ writes := [], inputs := none }, { writes := [(0x3003, 0x79)], inputs := none }] } with
      | .next t => !(flags t).getLsbD 2
      | _ => false) = true := by decide

theorem test_witness_SaveResult :
    boot.Inv ∧ Plain boot ∧ Aligned boot.regs.sp ∧ Reg.saveable .r0 = true ∧ Reg.saveable .fp = true :=
  ⟨boot_inv, boot_plain, rfl, rfl, rfl⟩

theorem test_witness_RestoreResult :
    Plain boot ∧ Aligned boot.regs.fp ∧ Reg.saveable .r0 = true ∧ Reg.saveable .fp = true := ⟨boot_plain, rfl, rfl, rfl⟩

theorem test_witness_IndeterminateSaveRestore :
    Role.regList.accepts (op (.register .ap)) = true ∧ (∀ r, (op (.register .ap)).mode = .register r → r.saveable = false) ∧
      Role.regList.accepts (op (.literal 3)) = true :=
  ⟨rfl, fun _ h => by cases h; rfl, rfl⟩

/-! The coprocessor. -/

/-- A coprocessor that acknowledges, and is done or not. -/
def coupled (done : Bool) : State :=
  { boot with
    inputs := { Inputs.idle with
      cop := { ack := true, done := done, status := 0, statusFault := false, d0 := 1, d1 := 2, d2 := 3 } } }

theorem test_witness_CoprocessorResult :
    (coupled true).Inv ∧ Plain (coupled true) ∧ (coupled true).inputs.cop.ack = true ∧
      (coupled true).inputs.cop.done = true ∧ (coupled true).inputs.cop.statusFault = false ∧
      AddressIs .addrPlain (op (.deferred .r0)) (coupled true) 0x3000 ∧ Aligned 0x3000 ∧
      AddressIs .addrPlain (op (.deferred .r1)) (coupled true) 0x3008 ∧ Aligned 0x3008 :=
  ⟨⟨by decide, by decide, by decide, by decide, by decide⟩, ⟨rfl, rfl, rfl⟩, rfl, rfl, rfl, ⟨rfl, rfl⟩, rfl, ⟨rfl, rfl⟩,
    rfl⟩

/-- A wait for the coprocessor, with a result of some words to an address. -/
def awaiting (done statusFault : Bool) (b : Word) (k : Nat) : State :=
  { coupled done with
    phase := .coprocessor b k 6
    inputs := { (coupled done).inputs with cop := { (coupled done).inputs.cop with statusFault := statusFault } } }

theorem test_witness_CoprocessorAbsentOrBusy :
    boot.inputs.cop.ack = false ∧ boot.bus = [] ∧ Plain (coupled false) ∧ Aligned 0x3000 ∧ (coupled false).bus = [] ∧
      (coupled false).inputs.cop.ack = true ∧ (coupled false).inputs.cop.done = false ∧
      AddressIs .addrPlain (op (.deferred .r0)) (coupled false) 0x3000 ∧
      AddressIs .addrPlain (op (.deferred .r1)) (coupled false) 0x3008 ∧
      AddressIs .addrPlain (op (.absolute 0x3001)) (coupled false) 0x3001 ∧
      memRead (coupled false) .copFetch .word (0x3001 + BitVec.ofNat 32 (4 * 0)) = none ∧
      (awaiting true false 0x3000 3).Inv ∧ Plain (awaiting true false 0x3000 3) ∧
      (awaiting false false 0x3000 3).inputs.cop.done = false ∧ (awaiting true false 0x3000 3).inputs.cop.done = true ∧
      (awaiting true false 0x3000 3).inputs.cop.statusFault = false ∧
      (awaiting true true 0x3000 3).inputs.cop.statusFault = true ∧
      writeReach (awaiting true false 0x3001 1) .copWrite .word 0x3001 1 = none :=
  ⟨rfl, rfl, ⟨rfl, rfl, rfl⟩, rfl, rfl, rfl, rfl, ⟨rfl, rfl⟩, ⟨rfl, rfl⟩, ⟨rfl, rfl⟩, by decide,
    ⟨by decide, by decide, by decide, by decide, by decide⟩, ⟨rfl, rfl, rfl⟩, rfl, rfl, rfl, rfl, by decide⟩

/-- A pointer that cannot be read, as the source and behind one that can. -/
theorem test_witness_CoprocessorAbsentOrBusy_pointer :
    (op (.absoluteDeferred 0x3001)).wellFormed .addrPlain = true ∧ (op (.deferred .r0)).wellFormed .addrPlain = true ∧
      effectiveAddress (.absoluteDeferred 0x3001) boot = .error (.externalMemory, boot) ∧
      effectiveAddress (.deferred .r0) boot = .ok (0x3000, boot) ∧ boot.bus = [] :=
  ⟨by decide, by decide, rfl, rfl, rfl⟩

/-- A third source word that cannot be read, after two that can. -/
theorem test_witness_CoprocessorAbsentOrBusy_source :
    let s := { coupled true with inputs := { (coupled true).inputs with replies := [faultAt 0x3008] } }
    s.bus = [] ∧ s.inputs.cop.ack = true ∧ AddressIs .addrPlain (op (.deferred .r0)) s 0x3000 ∧
      memRead s .copFetch .word (0x3000 + BitVec.ofNat 32 (4 * 2)) = none ∧
      ∀ k ∈ List.range 2, memRead s .copFetch .word (0x3000 + BitVec.ofNat 32 (4 * k)) =
        ([0x12345678, 0] : List Word)[k]? :=
  ⟨rfl, rfl, ⟨rfl, rfl⟩, by decide, by decide⟩

/-- A status fetch that is faulted, and the third result word and the first refused, with done at once and in the wait; the
source words of the instruction have been read. -/
theorem test_witness_CoprocessorAbsentOrBusy_refused :
    let s := fun a => { coupled true with inputs := { (coupled true).inputs with replies := [faultAt a] } }
    let w := fun a => { awaiting true false 0x3000 3 with inputs := { (coupled true).inputs with replies := [faultAt a] } }
    (∀ a, (s a).Inv ∧ (s a).bus = [] ∧ (s a).inputs.cop.ack = true ∧ (s a).inputs.cop.done = true ∧
      (s a).inputs.cop.statusFault = false) ∧
    (awaiting true true 0 0).inputs.cop.ack = true ∧ (awaiting true true 0 0).inputs.cop.statusFault = true ∧
    (∀ a, (w a).Inv ∧ (w a).bus = [] ∧ (w a).phase = .coprocessor 0x3000 3 6) ∧
    (∀ j ∈ List.range 2, memRead (s 0x3008) .copFetch .word (0x3010 + BitVec.ofNat 32 (4 * j)) = ([0, 0] : List Word)[j]?) ∧
    (∀ j ∈ List.range 2, ∀ v, writeReach (s 0x3008) .copWrite .word (0x3000 + BitVec.ofNat 32 (4 * j)) v =
      ([.memory 0x3000, .memory 0x3004] : List Reached)[j]?) ∧
    (∀ v, writeReach (s 0x3008) .copWrite .word (0x3000 + BitVec.ofNat 32 (4 * 2)) v = none) ∧
    (∀ v, writeReach (s 0x3000) .copWrite .word (0x3000 + BitVec.ofNat 32 (4 * 0)) v = none) ∧
    ∀ v, writeReach (w 0x3008) .copWrite .word (0x3000 + BitVec.ofNat 32 (4 * 2)) v = none :=
  ⟨fun _ => ⟨boot_inv, rfl, rfl, rfl, rfl⟩, rfl, rfl,
    fun _ => ⟨⟨boot_inv.1, boot_inv.2.1, rfl, Nat.zero_le 64, Nat.zero_le 8⟩, rfl, rfl⟩, by decide,
    by intro j hj v; fin_cases hj <;> rfl, fun _ => rfl, fun _ => rfl, fun _ => rfl⟩

/-! Stack and miscellaneous. -/

theorem test_witness_PushResult :
    boot.Inv ∧ boot.bus = [] ∧ (∀ x, writeReach boot .write .word boot.regs.sp x = some (.memory 0x3000)) ∧
      (op (.register .sp)).wellFormed .srcPlain = true ∧ (∃ v, readSource .sword (.register .sp) boot = .ok (v, boot)) ∧
      AddressIs .addrPlain (op (.deferred .r0)) boot 0x3000 :=
  ⟨boot_inv, rfl, fun _ => rfl, rfl, ⟨_, rfl⟩, address_boot _ (.inr rfl)⟩

theorem test_witness_PopResult :
    boot.Inv ∧ boot.bus = [] ∧ (op (.deferred .r0)).wellFormed .dstPlain = true ∧ Permitted (op (.deferred .r0)) boot ∧
      resolve (.deferred .r0) boot = .ok (.memory 0x3000, boot) ∧ Storable .sword (.memory 0x3000) boot ∧
      (op (.register .sp)).wellFormed .dstPlain = true ∧ Permitted (op (.register .sp)) boot ∧
      resolve (.register .sp) boot = .ok (.register .sp, boot) ∧ Storable .sword (.register .sp) boot ∧
      memRead boot .operandFetch .word (boot.regs.sp - 4) = some 0 :=
  ⟨boot_inv, rfl, rfl, (by intro r h; cases h), rfl, ⟨rfl, fun _ => rfl⟩, rfl, fun _ _ _ => by decide, rfl, trivial,
    by decide⟩

theorem test_witness_SimpleInstructions :
    boot.pendingOverflow = false ∧ ({ boot with pendingOverflow := true } : State).pendingOverflow = true := ⟨rfl, rfl⟩

/-! Operating system. -/

theorem test_witness_GateResult :
    boot.Inv ∧ boot.phase = .running ∧ Plain boot ∧ Aligned boot.regs.pcbp ∧ Aligned boot.regs.sp ∧
      wordAt boot (boot.regs.pcbp + 12) ≤ boot.regs.sp ∧ boot.regs.sp < wordAt boot (boot.regs.pcbp + 16) ∧
      Aligned (wordAt (pushed (boot.regs.pc + 2) ((boot.regs.psw &&& 0x03FFFF80) ||| 0x0A)) (boot.regs.r0 &&& 0x7C)) :=
  ⟨boot_inv, rfl, boot_plain, rfl, rfl, by decide, by decide, by unfold Aligned; decide⟩

/-- GATE at each of its stops: SP below and at the ends of the bounds, and each access refused in turn. r0 is 0x3000 and r1
0x3008: the tables are at 0 and 0x6000, the entry at 0x9008. -/
theorem test_witness_GateResult_faults :
    let k := fun r => forceKernel true (answered r)
    (∀ r, (answered r).Inv ∧ (answered r).phase = .running ∧ (answered r).bus = []) ∧
      Unreadable (k [faultAt 0x200C]) 0x200C ∧ Unreadable (k [faultAt 0x2010]) 0x2010 ∧
      (∀ a ∈ ([0x3000, 0x3004, 0, 0x9008, 0x900C] : List Word),
        memRead (k [faultAt a]) .operandFetch .word 0x200C = some 0x3000 ∧
          memRead (k [faultAt a]) .operandFetch .word 0x2010 = some 0x4000) ∧
      ((0x2FFC : Word) < 0x3000 ∧ (0x4000 : Word) ≤ 0x4000) ∧
      Unwritable (answered [faultAt 0x3000]) 0x3000 ∧ Writable (answered [faultAt 0x3004]) 0x3000 ∧
      Unwritable (answered [faultAt 0x3004]) 0x3004 ∧ Writable (answered [faultAt 0]) 0x3004 ∧
      boot.regs.r0 &&& 0x7C = 0 ∧ Unreadable (k [faultAt 0]) 0 ∧
      (∀ x, writeReach (answered [faultAt 0x9008]) .write .word 0x3000 x = some (.memory 0x3000) ∧
        writeReach (answered [faultAt 0x9008]) .write .word 0x3004 x = some (.memory 0x3004)) ∧
      readReach (k [faultAt 0x9008]) .operandFetch .word 0 = some (.memory 0) ∧
      wordAt boot 0 + (boot.regs.r1 &&& 0x7FF8) = 0x9008 ∧ Unreadable (k [faultAt 0x9008]) 0x9008 ∧
      Unreadable (k [faultAt 0x900C]) (0x9008 + 4) :=
  ⟨fun _ => ⟨boot_inv, rfl, rfl⟩, rfl, rfl, by intro a ha; fin_cases ha <;> decide, by decide, fun _ => rfl, fun _ => rfl,
    fun _ => rfl, fun _ => rfl, by decide, rfl, fun _ => ⟨rfl, rfl⟩, rfl, by decide, rfl, rfl⟩

/-- The saved word at 0x30FC gives level 3 or level 0. -/
def returning (psw saved : Word) : State := start psw 0x1000 [(.sp, 0x3100)] [(0x30FC, saved)] []

theorem test_witness_ReturnFromGate :
    Plain (returning 0x1B 0x1E1B) ∧ Aligned (returning 0x1B 0x1E1B).regs.sp ∧
      (pswCm (returning 0x1B 0x1B).regs.psw).toNat ≤
        (pswCm (wordAt (returning 0x1B 0x1B) ((returning 0x1B 0x1B).regs.sp - 4))).toNat ∧
      (pswCm (wordAt (returning 0x81B 0x1B) ((returning 0x81B 0x1B).regs.sp - 4))).toNat <
        (pswCm (returning 0x81B 0x1B).regs.psw).toNat :=
  ⟨⟨rfl, rfl, rfl⟩, rfl, by decide, by decide⟩

theorem test_witness_ReturnFromGate_faults :
    Unreadable (answered [faultAt 0x2FFC]) ((answered [faultAt 0x2FFC]).regs.sp - 4) ∧
      Unreadable (answered [faultAt 0x2FF8]) ((answered [faultAt 0x2FF8]).regs.sp - 8) := ⟨rfl, rfl⟩

/-- boot, about to call the process at an address, or to return to it. -/
def switching (pcb : Word) : State :=
  { setReg .r0 pcb boot with mem := writeData boot.mem .word 0x7FFC pcb }

theorem switching_ready (pcb : Word) :
    (switching pcb).phase = .running ∧ Plain (switching pcb) ∧ isKernel (switching pcb) = true ∧
      Aligned (switching pcb).regs.isp ∧ Aligned (switching pcb).regs.pcbp ∧ (switching pcb).regs.r0 = pcb :=
  ⟨rfl, ⟨rfl, rfl, rfl⟩, (by decide : isKernel boot = true), (rfl : Aligned boot.regs.isp),
    (rfl : Aligned boot.regs.pcbp), rfl⟩

theorem test_witness_CallProcess :
    (switching 0x9000).Inv ∧ (switching 0x9100).Inv ∧ Aligned 0x9000 ∧ Aligned 0x9100 ∧
    pswR (wordAt (switching 0x9000) 0x9000) = false ∧
    (∀ x ∈ ([0x8000, 0x2000, 0x2000 + 4, 0x2000 + 8] : List Word), x ∉ ([0x9000, 0x9000 + 4, 0x9000 + 8] : List Word)) ∧
    (switching 0x9000).regs.isp ∉ ([0x2000, 0x2000 + 4, 0x2000 + 8] : List Word) ∧
    pswR (wordAt (switching 0x9100) 0x9100) = true ∧
    (∀ x ∈ ([0x9100, 0x9100 + 4, 0x9100 + 8, processPcbp 0x9100 (wordAt (switching 0x9100) 0x9100) + 64] : List Word),
      x ≠ (switching 0x9100).regs.isp ∧ ¬(x - (switching 0x9100).regs.pcbp).toNat < 64) ∧
    ¬((switching 0x9100).regs.isp - (switching 0x9100).regs.pcbp).toNat < 64 := by
  refine ⟨⟨by decide, by decide, by decide, by decide, by decide⟩, ⟨by decide, by decide, by decide, by decide, by decide⟩,
    rfl, rfl, by decide, ?_, by decide, by decide, ?_, by decide⟩
  · intro x hx
    simp only [List.mem_cons, List.not_mem_nil, or_false] at hx
    rcases hx with rfl | rfl | rfl | rfl <;> decide
  · intro x hx
    simp only [List.mem_cons, List.not_mem_nil, or_false] at hx
    rcases hx with rfl | rfl | rfl | rfl <;> decide

theorem test_witness_CallProcess_faults :
    let s := fun r => setReg .r0 0x9100 (answered r)
    let k := fun r => forceKernel true (s r)
    (∀ r, (s r).bus = [] ∧ (s r).regs.r0 = 0x9100) ∧ isKernel (s []) = true ∧
      Unwritable (k [faultAt 0x8000]) 0x8000 ∧ Writable (k [faultAt 0x2000]) 0x8000 ∧ SwitchFaults k 0x9100 :=
  ⟨fun _ => ⟨rfl, rfl⟩, by decide, fun _ => rfl, fun _ => rfl,
    switch_faults _ _ (.inr rfl) fun _ => ⟨rfl, fun _ _ => rfl, fun _ _ _ => rfl⟩⟩

theorem test_witness_ReturnToProcess :
    wordAt (switching 0x9000) ((switching 0x9000).regs.isp - 4) = 0x9000 ∧
      wordAt (switching 0x9100) ((switching 0x9100).regs.isp - 4) = 0x9100 ∧
      pswR (wordAt (switching 0x9000) 0x9000) = false ∧ pswR (wordAt (switching 0x9100) 0x9100) = true := by decide

/-- The PCB at 0x9100, R set in its image and I too: the size of the first block is at 0x914C. -/
theorem test_witness_ReturnToProcess_faults :
    let k := fun a => forceKernel true (setReg .isp 0x7FFC (faulting a (switching 0x9100)))
    (∀ a, (faulting a (switching 0x9100)).bus = [] ∧ (faulting a (switching 0x9100)).regs.isp - 4 = 0x7FFC) ∧
      isKernel (switching 0x9100) = true ∧ Unreadable (k 0x7FFC) 0x7FFC ∧
      (∀ a ∈ ([0x9100, 0x9104, 0x9108, 0x914C] : List Word),
        memRead (k a) .operandFetch .word 0x7FFC = some 0x9100) ∧
      Unreadable (k 0x9100) 0x9100 ∧
      (∀ a ∈ ([0x9104, 0x9108, 0x914C] : List Word), memRead (k a) .operandFetch .word 0x9100 = some 0x1E180) ∧
      Unreadable (k 0x9104) (0x9100 + 4) ∧ Unreadable (k 0x9108) (0x9100 + 8) ∧
      ¬Unreadable (k 0x914C) (0x9100 + 4) ∧ ¬Unreadable (k 0x914C) (0x9100 + 8) ∧ pswR 0x1E180 = true ∧
      Unreadable (k 0x914C) (processPcbp 0x9100 0x1E180 + 64) :=
  ⟨fun _ => ⟨rfl, (by decide : (0x8000 : Word) - 4 = 0x7FFC)⟩, by decide, rfl, by intro a ha; fin_cases ha <;> decide, rfl,
    by intro a ha; fin_cases ha <;> decide, rfl, rfl, nofun, nofun, rfl, rfl⟩

/-- boot in the block moves, with a count. -/
def moving (o : Switch) (copying : Bool) (count : Word) : State :=
  { setReg .r2 count boot with phase := .blockMoves o copying, regs := { boot.regs with r2 := count, psw := 0x11B } }

theorem test_witness_BlockMoveSteps :
    (∀ o c n, Plain (moving o c n) ∧ Aligned (moving o c n).regs.r0 ∧ Aligned (moving o c n).regs.r1 ∧
      Aligned (moving o c n).regs.pcbp ∧ (moving o c n).phase = .blockMoves o c ∧ (moving o c n).regs.r2 = n ∧
      (moving o c n).Inv) ∧
    pswR (moving .retps false 0).regs.psw = true :=
  ⟨fun _ _ _ => ⟨⟨rfl, rfl, rfl⟩, (rfl : Aligned boot.regs.r0), (rfl : Aligned boot.regs.r1),
    (rfl : Aligned boot.regs.pcbp), rfl, rfl, boot_inv.1, (by decide : (0x11B : Word) &&& 0xFC000000 = 0), rfl,
    Nat.zero_le 64, Nat.zero_le 8⟩, by decide⟩

theorem test_witness_BlockMoveSteps_faults :
    (∀ o c n a, (faulting a (moving o c n)).bus = [] ∧ (faulting a (moving o c n)).phase = .blockMoves o c ∧
      (faulting a (moving o c n)).regs.r2 = n) ∧
    Unreadable (faulting 0x3000 (moving .callps false 1)) 0x3000 ∧
    Unreadable (faulting 0x3000 (moving .interrupt true 0)) 0x3000 ∧
    Unreadable (faulting 0x3000 (moving .interrupt true 1)) 0x3000 ∧
    (memRead (faulting 0x3008 (moving .retps true 1)) .operandFetch .word 0x3000 = some 0x12345678 ∧
      Unwritable (faulting 0x3008 (moving .retps true 1)) 0x3008) ∧
    pswR (moving .retps false 0).regs.psw = true ∧
    (Unreadable (faulting 0x2014 (moving .retps false 0)) 0x2014 ∧
      Unreadable (faulting 0x203C (moving .retps false 0)) 0x203C ∧
      Unreadable (faulting 0x2040 (moving .retps false 0)) ((moving .retps false 0).regs.pcbp + 64)) :=
  ⟨fun _ _ _ _ => ⟨rfl, rfl, rfl⟩, rfl, rfl, rfl, ⟨by decide, fun _ => rfl⟩, by decide, rfl, rfl, rfl⟩

theorem test_witness_VirtualModeJumps : pswCm boot.regs.psw = 0 ∧ pswCm user.regs.psw ≠ 0 := by decide

theorem test_witness_WaitAndInterruptAcknowledge :
    isKernel boot = true ∧ boot.pendingOverflow = false ∧ boot.traceOpen = false ∧
      (pswTe boot.regs.psw && pswTm boot.regs.psw) = false ∧ boot.bus = [] ∧ nonmaskable.inputs.nmint = true ∧
      isKernel nonmaskable = true ∧ nonmaskable.bus = [] :=
  ⟨by decide, rfl, rfl, by decide, rfl, rfl, by decide, rfl⟩

/-- WAIT with a late overflow trap pending, traced, and after an explicit change of TE. -/
theorem test_witness_WaitAndInterruptAcknowledge_traps :
    let late := { boot with pendingOverflow := true }
    let traced := start 0x2001F 0 [] [] []
    let opened := { boot with traceOpen := true }
    isKernel late = true ∧ late.pendingOverflow = true ∧ isKernel traced = true ∧ traced.pendingOverflow = false ∧
      traced.traceOpen = false ∧ (pswTe traced.regs.psw && pswTm traced.regs.psw) = true ∧ isKernel opened = true ∧
      opened.pendingOverflow = false ∧ opened.traceOpen = true := by decide

/-- The acknowledge read of level 0, INTOPT high, is at address 3. -/
theorem test_witness_WaitAndInterruptAcknowledge_replies :
    (∀ r, (answered r).bus = [] ∧ (answered r).inputs.nmint = false ∧ (answered r).inputs.avec = false) ∧
      isKernel (answered [device]) = true ∧ (vectored 0x1B true []).inputs.avec = true ∧
      reply boot .interruptAck .byte .read (acknowledgeAddress boot) 0 = none ∧
      reply (answered [device]) .interruptAck .byte .read (acknowledgeAddress (answered [device])) 0 = some (.drive 7 none) ∧
      reply (answered [faultAt 3]) .interruptAck .byte .read (acknowledgeAddress (answered [faultAt 3])) 0 = some .fault :=
  ⟨fun _ => ⟨rfl, rfl, rfl⟩, by decide, rfl, by decide, by decide, by decide⟩

end Sys2Proof.Tests
end

section
/-! The obligation on memory: data is big-endian (spec/20_memory.md R70). A stored datum reads back cut to its size
(readData_writeData); its bytes in memory are those of the datum that is read back. -/

namespace Sys2Proof.Machine

/-! ## The bytes of a stored datum, from the datum it reads back as -/

/-- The two bytes of a halfword that is read zero-extended. -/
theorem half_bytes (p q : Byte) : let w : Word := (p ++ q).zeroExtend 32
    w.extractLsb' 8 8 = p ∧ w.extractLsb' 0 8 = q := by
  have e : BitVec.toNat (p ++ q) = p.toNat * 256 + q.toNat := by
    rw [BitVec.toNat_append, ← Nat.shiftLeft_add_eq_or_of_lt q.isLt, Nat.shiftLeft_eq]
  have := p.isLt
  have := q.isLt
  constructor <;> apply BitVec.eq_of_toNat_eq <;>
    simp only [BitVec.extractLsb'_toNat, BitVec.toNat_setWidth, e, Nat.shiftRight_eq_div_pow] <;> omega

/-- The low n bits of a value, zero-extended, have the bytes of the value within those n bits. -/
theorem extractLsb'_setWidth_extractLsb' (v : Word) {n start : Nat} (hs : start + 8 ≤ n) (hn : n ≤ 32) :
    ((v.extractLsb' 0 n).setWidth 32).extractLsb' start 8 = v.extractLsb' start 8 := by
  apply BitVec.eq_of_getLsbD_eq
  intro i hi
  have hin : start + i < n := by omega
  have hword : start + i < 32 := by omega
  simp [hin, hword]

/-- Cutting a value to a size keeps the bytes within the size (20_memory R76). -/
theorem extractLsb'_truncated {size : Size} (v : Word) {start : Nat} (hs : start + 8 ≤ 8 * size.bytes) :
    (truncated size v).extractLsb' start 8 = v.extractLsb' start 8 := by
  cases size with
  | byte => exact extractLsb'_setWidth_extractLsb' v hs (by decide)
  | half => exact extractLsb'_setWidth_extractLsb' v hs (by decide)
  | word => rfl

/-- A stored byte is the low byte of the value. -/
theorem peek_writeData_byte {m : Memory} (h : m.wf = true) (a v : Word) :
    peek (writeData m .byte a v) a = v.extractLsb' 0 8 := by
  rw [writeData, peek_poke h, if_pos rfl]

/-- A stored halfword has its high byte at its address and its low byte behind it. -/
theorem peek_writeData_half {m : Memory} (h : m.wf = true) (a v : Word) :
    peek (writeData m .half a v) a = v.extractLsb' 8 8 ∧ peek (writeData m .half a v) (a + 1) = v.extractLsb' 0 8 := by
  have hread := readData_writeData h .half a v
  obtain ⟨hhigh, hlow⟩ := half_bytes (peek (writeData m .half a v) a) (peek (writeData m .half a v) (a + 1))
  rw [readData] at hread
  rw [hread, extractLsb'_truncated v (by decide)] at hhigh hlow
  exact ⟨hhigh.symm, hlow.symm⟩

/-- A stored word has its most significant byte at its address and the others behind it, in falling order. -/
theorem peek_writeData_word {m : Memory} (h : m.wf = true) (a v : Word) :
    peek (writeData m .word a v) a = v.extractLsb' 24 8 ∧ peek (writeData m .word a v) (a + 1) = v.extractLsb' 16 8 ∧
      peek (writeData m .word a v) (a + 2) = v.extractLsb' 8 8 ∧
      peek (writeData m .word a v) (a + 3) = v.extractLsb' 0 8 := by
  have hread : readData (writeData m .word a v) .word a = v := readData_writeData h .word a v
  obtain ⟨h0, h1, h2, h3⟩ := word_bytes (peek (writeData m .word a v) a) (peek (writeData m .word a v) (a + 1))
    (peek (writeData m .word a v) (a + 2)) (peek (writeData m .word a v) (a + 3))
  rw [readData] at hread
  rw [hread] at h0 h1 h2 h3
  exact ⟨h0.symm, h1.symm, h2.symm, h3.symm⟩

/-- Settles O14: the read back is readData_writeData, the frame peek_writeData_other, the stored bytes those of the datum
read back; how a read composes its bytes is the definition of readData. -/
theorem storedDataReadBack : Obligations.StoredDataReadBack := by
  unfold Obligations.StoredDataReadBack
  intro m size a v h
  have hframe : ∀ x, ¬covers size a x → peek (writeData m size a v) x = peek m x :=
    fun _ hx => peek_writeData_other h hx v
  refine ⟨readData_writeData h size a v, hframe, ?word, ?half, ?byte, rfl, rfl, rfl⟩
  case word => rintro rfl; exact peek_writeData_word h a v
  case half => rintro rfl; exact peek_writeData_half h a v
  case byte => rintro rfl; exact peek_writeData_byte h a v

end Sys2Proof.Machine
end

section
/-! The obligation on the context save of a process switch, XSWITCH_ONE (spec/46_operating_system.md R476). The saves
that R does not govern leave contextSaved; with R set the eleven registers of R476 follow as one row of words. What it
refuses is xswitchOne_reach. -/

namespace Sys2Proof.Machine

/-! ## The PSW with R replaced -/

/-- Replacing R by that of an image takes bit 8 from the image and leaves the other bits that exist. -/
theorem withR_pswR_masked (image old : Word) :
    withR (pswR image) old &&& maskPsw = (old &&& 0x03FFFEFF) ||| (image &&& 0x00000100) := by
  have bit : (BitVec.ofBool (pswR image)).zeroExtend 32 <<< 8 &&& 0x00000100 = image &&& 0x00000100 := by
    apply BitVec.eq_of_getLsbD_eq
    intro i hi
    by_cases h8 : i = 8
    · subst h8; simp [pswR]
    · have : (0x00000100 : Word).getLsbD i = false := by
        have : ∀ i < 32, i ≠ 8 → (0x00000100 : Word).getLsbD i = false := by decide
        exact this i hi h8
      simp only [BitVec.getLsbD_and, this, Bool.and_false]
  rw [withR, merge_masked, show maskR &&& maskPsw = 0x00000100 by decide,
    show ~~~maskR &&& maskPsw = 0x03FFFEFF by decide, bit]

/-- R of the PSW that takes R from an image. -/
theorem pswR_withR_masked (image old : Word) : pswR (withR (pswR image) old &&& maskPsw) = pswR image := by
  cases h : pswR image <;> simp [pswR, withR, merge, maskR, maskPsw]

/-! ## Places in a PCB -/

/-- A byte outside the first n bytes from b is in no word within them. -/
theorem not_covers_of_outside {b x : Word} {n k : Nat} (hx : ¬(x - b).toNat < n) (hk : k + 4 ≤ n) :
    ¬covers .word (b + BitVec.ofNat 32 k) x := by
  have := x.isLt
  have := b.isLt
  simp only [covers, Size.bytes, BitVec.toNat_sub, BitVec.toNat_add, BitVec.toNat_ofNat] at hx ⊢
  omega

/-- The bytes from offset 20 to 63 are those of the eleven words at offset 20. -/
theorem outside_register_row {b x : Word} (h : ¬(20 ≤ (x - b).toNat ∧ (x - b).toNat < 64)) :
    ¬(x - (b + 20)).toNat < 44 := by
  have := x.isLt
  have := b.isLt
  simp only [BitVec.toNat_sub, BitVec.toNat_add, show BitVec.toNat (20 : Word) = 20 from rfl] at h ⊢
  omega

/-- A word that starts in the first 12 bytes from b does not start in the eleven words at offset 20. -/
theorem context_place_outside (b : Word) {k : Nat} (hk : k < 12) : ¬(b + BitVec.ofNat 32 k - (b + 20)).toNat < 44 := by
  have := b.isLt
  simp only [BitVec.toNat_sub, BitVec.toNat_add, BitVec.toNat_ofNat, show BitVec.toNat (20 : Word) = 20 from rfl]
  omega

/-! ## The saves that R does not govern -/

/-- The PSW, PC and SP saved in the current PCB, R of the PSW as in the image (46_operating_system R476). -/
def contextSaved (image : Word) (s : State) : State :=
  setPsw (withR (pswR image) s.regs.psw) { s with
    mem := writeData (writeData (writeData s.mem .word (s.regs.pcbp + 4) s.regs.pc)
      .word s.regs.pcbp (withR (pswR image) s.regs.psw &&& maskPsw)) .word (s.regs.pcbp + 8) s.regs.sp }

theorem contextSaved_psw (image : Word) (s : State) :
    (contextSaved image s).regs.psw = (s.regs.psw &&& 0x03FFFEFF) ||| (image &&& 0x00000100) :=
  withR_pswR_masked image s.regs.psw

theorem contextSaved_mem (image : Word) (s : State) :
    (contextSaved image s).mem = writeData (writeData (writeData s.mem .word (s.regs.pcbp + 4) s.regs.pc)
      .word s.regs.pcbp (contextSaved image s).regs.psw) .word (s.regs.pcbp + 8) s.regs.sp := rfl

/-- It writes the PSW only. -/
theorem reg_contextSaved {r : Reg} (hr : r ≠ .psw) (image : Word) (s : State) :
    reg (contextSaved image s) r = reg s r := by
  rw [contextSaved, reg_setPsw, if_neg hr]; rfl

theorem sameMachine_contextSaved (image : Word) (s : State) : SameMachine s (contextSaved image s) :=
  ⟨rfl, rfl, rfl, rfl, rfl, rfl, rfl, rfl, rfl, rfl, rfl, rfl⟩

theorem wf_contextSaved {s : State} (hw : s.mem.wf = true) (image : Word) : (contextSaved image s).mem.wf = true := by
  rw [contextSaved_mem]
  exact wf_writeData (wf_writeData (wf_writeData hw _ _ _) _ _ _) _ _ _

/-- The three words it leaves at the start of the PCB. -/
theorem wordAt_contextSaved {s : State} (hw : s.mem.wf = true) (hb : Aligned s.regs.pcbp) (image : Word) :
    wordAt (contextSaved image s) s.regs.pcbp = (contextSaved image s).regs.psw ∧
      wordAt (contextSaved image s) (s.regs.pcbp + 4) = s.regs.pc ∧
      wordAt (contextSaved image s) (s.regs.pcbp + 8) = s.regs.sp := by
  have h4 : Aligned (s.regs.pcbp + 4) := hb.add (k := 4) rfl
  have h8 : Aligned (s.regs.pcbp + 8) := hb.add (k := 8) rfl
  have n04 : s.regs.pcbp ≠ s.regs.pcbp + 4 := by simp
  have n08 : s.regs.pcbp ≠ s.regs.pcbp + 8 := by simp
  have n48 : s.regs.pcbp + 4 ≠ s.regs.pcbp + 8 := add_ne_add _ (by decide)
  have w1 := wf_writeData hw .word (s.regs.pcbp + 4) s.regs.pc
  have w2 := wf_writeData w1 .word s.regs.pcbp (contextSaved image s).regs.psw
  simp only [wordAt, contextSaved_mem]
  refine ⟨?_, ?_, ?_⟩
  · rw [readData_writeData_ne w2 h8 hb n08.symm]
    exact readData_writeData w1 .word _ _
  · rw [readData_writeData_ne w2 h8 h4 n48.symm, readData_writeData_ne w1 hb h4 n04]
    exact readData_writeData hw .word _ _
  · exact readData_writeData w2 .word _ _

/-- No byte outside those three words changes. -/
theorem peek_contextSaved {s : State} (hw : s.mem.wf = true) (image : Word) {x : Word}
    (hx : ¬(x - s.regs.pcbp).toNat < 12) : peek (contextSaved image s).mem x = peek s.mem x := by
  have w1 := wf_writeData hw .word (s.regs.pcbp + 4) s.regs.pc
  have c0 : ¬covers .word s.regs.pcbp x := by simpa using not_covers_of_outside (k := 0) hx (by decide)
  have c4 : ¬covers .word (s.regs.pcbp + 4) x := not_covers_of_outside (k := 4) hx (by decide)
  have c8 : ¬covers .word (s.regs.pcbp + 8) x := not_covers_of_outside (k := 8) hx (by decide)
  rw [contextSaved_mem, peek_writeData_other (wf_writeData w1 _ _ _) c8, peek_writeData_other w1 c0,
    peek_writeData_other hw c4]

/-! ## The registers saved where R is set -/

/-- The registers saved where R is set, in the order of their words from PCBP + 20 on (46_operating_system R476). -/
def switchRegs : List Reg := .ap :: .fp :: generalRegs

/-- The first word of a row in a plain state, and the rest of the row. -/
theorem storeWords_cons_plain {s : State} (hp : Plain s) {a : Word} (ha : Aligned a) (e : Exn) (v : Word)
    (vs : List Word) : storeWords e a (v :: vs) s =
      storeWords e (a + 4) vs { s with mem := writeData s.mem .word a v } := by
  simp only [storeWords, store_plain hp ha, bind, Except.bind]

/-- AP, FP and r0 to r8 stored one after the other, and what follows, are one row of words. -/
theorem storeRow_switchRegs_plain {u : State} (hp : Plain u) (hb : Aligned u.regs.pcbp) (e : Exn)
    (f : State → Run State) :
    (do
      let v ← store e (u.regs.pcbp + 20) u.regs.ap u
      let v ← store e (v.regs.pcbp + 24) v.regs.fp v
      let v ← storeWords e (v.regs.pcbp + 28) (generalRegs.map (reg v)) v
      f v) = storeWords e (u.regs.pcbp + 20) (switchRegs.map (reg u)) u >>= f := by
  let u1 : State := { u with mem := writeData u.mem .word (u.regs.pcbp + 20) u.regs.ap }
  let u2 : State := { u1 with mem := writeData u1.mem .word (u.regs.pcbp + 24) u1.regs.fp }
  have a20 : Aligned (u.regs.pcbp + 20) := hb.add (k := 20) rfl
  have a24 : Aligned (u.regs.pcbp + 24) := hb.add (k := 24) rfl
  have hap : store e (u.regs.pcbp + 20) u.regs.ap u = .ok u1 := store_plain hp a20 e _
  have hfp : store e (u1.regs.pcbp + 24) u1.regs.fp u1 = .ok u2 := store_plain (s := u1) hp a24 e _
  have hrow := calc storeWords e (u.regs.pcbp + 20) (switchRegs.map (reg u)) u
    _ = storeWords e (u.regs.pcbp + 20 + 4) (u1.regs.fp :: generalRegs.map (reg u1)) u1 :=
      storeWords_cons_plain hp a20 e _ _
    _ = storeWords e (u.regs.pcbp + 24) (u1.regs.fp :: generalRegs.map (reg u1)) u1 := by
      rw [BitVec.add_assoc]; rfl
    _ = storeWords e (u.regs.pcbp + 24 + 4) (generalRegs.map (reg u2)) u2 :=
      storeWords_cons_plain (s := u1) hp a24 e _ _
    _ = storeWords e (u.regs.pcbp + 28) (generalRegs.map (reg u2)) u2 := by
      rw [BitVec.add_assoc]; rfl
  simp only [hrow, hap, bind, Except.bind]
  rw [hfp]

/-- XSWITCH_ONE in a plain state: the saves that R does not govern and, where the image has R set, the row of the other
registers, with FP left behind their words. -/
theorem xswitchOne_plain {s : State} (hp : Plain s) (hb : Aligned s.regs.pcbp) {t : Word} (ht : Aligned t) (e : Exn)
    {image : Word} (hi : image = wordAt { s with mem := writeData s.mem .word (s.regs.pcbp + 4) s.regs.pc } t) :
    xswitchOne t e s =
      if pswR image then do
        let w ← storeWords e (s.regs.pcbp + 20) (switchRegs.map (reg s)) (contextSaved image s)
        .ok (setReg .fp (w.regs.pcbp + 52) w)
      else .ok (contextSaved image s) := by
  let s1 : State := { s with mem := writeData s.mem .word (s.regs.pcbp + 4) s.regs.pc }
  let s2 : State := setPsw (withR (pswR image) s1.regs.psw) s1
  let s3 : State := { s2 with mem := writeData s2.mem .word s2.regs.pcbp s2.regs.psw }
  have h1 : store e (s.regs.pcbp + 4) s.regs.pc s = .ok s1 := store_plain hp (hb.add (k := 4) rfl) e _
  have h2 : load e t s1 = .ok (image, s1) := hi ▸ load_plain (s := s1) hp ht e
  have h3 : store e s2.regs.pcbp s2.regs.psw s2 = .ok s3 := store_plain (s := s2) hp hb e _
  have h4 : store e (s3.regs.pcbp + 8) s3.regs.sp s3 = .ok (contextSaved image s) :=
    store_plain (s := s3) hp (hb.add (k := 8) rfl) e _
  have hr : pswR (contextSaved image s).regs.psw = pswR image := pswR_withR_masked image s.regs.psw
  simp only [xswitchOne, h1, h2, bind, Except.bind]
  rw [h3]
  simp only []
  rw [h4]
  simp only [hr]
  split
  · exact storeRow_switchRegs_plain (u := contextSaved image s) hp hb e fun w => .ok (setReg .fp (w.regs.pcbp + 52) w)
  · rfl

/-- The row of the registers, register by register. -/
theorem wordsAt_switchRegs {b : Word} {s u w : State} (h : WordsAt (b + 20) (switchRegs.map (reg s)) u w) :
    wordAt w (b + 20) = s.regs.ap ∧ wordAt w (b + 24) = s.regs.fp ∧
      ∀ k, k < 9 → wordAt w (b + 28 + BitVec.ofNat 32 (4 * k)) = reg s (Reg.ofNum (BitVec.ofNat 4 k)) := by
  obtain ⟨hwords, -⟩ := h
  have hl : (switchRegs.map (reg s)).length = 11 := List.length_map _
  have place : ∀ k, wordAt w (b + 20 + BitVec.ofNat 32 (4 * k)) = wordAt w (b + BitVec.ofNat 32 (20 + 4 * k)) :=
    fun k => by rw [BitVec.add_assoc, show (20 : Word) = BitVec.ofNat 32 20 from rfl, ← BitVec.ofNat_add]
  refine ⟨?_, ?_, fun k hk => ?_⟩
  · exact (place 0).symm.trans (hwords 0 (hl ▸ by decide))
  · exact (place 1).symm.trans (hwords 1 (hl ▸ by decide))
  · have number : ∀ k < 9, switchRegs[k + 2]? = some (Reg.ofNum (BitVec.ofNat 4 k)) := by decide
    have := hwords (k + 2) (by rw [hl]; exact Nat.add_lt_add_right hk 2)
    rw [place, List.getD_eq_getElem?_getD, List.getElem?_map, number k hk] at this
    rw [BitVec.add_assoc, show (28 : Word) = BitVec.ofNat 32 28 from rfl, ← BitVec.ofNat_add,
      show 28 + 4 * k = 20 + 4 * (k + 2) by omega]
    exact this

/-- The state after the whole context save with R set, m being memory with the row of the registers stored. -/
def registersSaved (image : Word) (m : Memory) (s : State) : State :=
  setReg .fp (s.regs.pcbp + 52) { contextSaved image s with mem := m }

theorem sameMachine_registersSaved (image : Word) (m : Memory) (s : State) :
    SameMachine s (registersSaved image m s) :=
  ⟨rfl, rfl, rfl, rfl, rfl, rfl, rfl, rfl, rfl, rfl, rfl, rfl⟩

/-- The row of the registers leaves the first three words of the PCB alone. -/
theorem wordAt_registersSaved {s : State} (hb : Aligned s.regs.pcbp) {image : Word} {m : Memory} {vs : List Word}
    (hlen : vs.length = 11)
    (hrow : WordsAt (s.regs.pcbp + 20) vs (contextSaved image s) { contextSaved image s with mem := m }) {k : Nat}
    (hk : k < 12) (ha : Aligned (BitVec.ofNat 32 k)) :
    wordAt (registersSaved image m s) (s.regs.pcbp + BitVec.ofNat 32 k) =
      wordAt (contextSaved image s) (s.regs.pcbp + BitVec.ofNat 32 k) := by
  obtain ⟨-, hframe⟩ := hrow
  rw [hlen] at hframe
  exact readData_outside (hb.add (k := 20) rfl) (hb.add ha) hframe (context_place_outside _ hk)

/-- FP changes too, and no byte outside the first three words of the PCB and the row. -/
theorem registersSaved_frame {s : State} (hw : s.mem.wf = true) {image : Word} {m : Memory}
    (hrow : WordsAt (s.regs.pcbp + 20) (switchRegs.map (reg s)) (contextSaved image s)
      { contextSaved image s with mem := m }) :
    OnlyRegs [.psw, .fp] s (registersSaved image m s) ∧
      ∀ x, ¬(x - s.regs.pcbp).toNat < 12 →
        ¬(20 ≤ (x - s.regs.pcbp).toNat ∧ (x - s.regs.pcbp).toNat < 64) →
        peek (registersSaved image m s).mem x = peek s.mem x := by
  refine ⟨fun r hr => ?_, fun x hx hrx => ?_⟩
  · simp only [List.mem_cons, List.not_mem_nil, or_false, not_or] at hr
    obtain ⟨hpsw, hfp⟩ := hr
    exact (reg_setReg_ne hfp _ _).trans (reg_contextSaved hpsw image s)
  · obtain ⟨-, hframe⟩ := hrow
    rw [List.length_map] at hframe
    exact (hframe x (outside_register_row hrx)).trans (peek_contextSaved hw image hx)

/-! ## The obligation -/

/-- Settles O24. In a plain state the saves are those of contextSaved and, with R set, one row of words that leaves the
words of contextSaved alone; where accesses are refused every outcome is one of those of xswitchOne_reach. -/
theorem contextSave : Obligations.ContextSave := by
  unfold Obligations.ContextSave
  refine ⟨?saves, ?refuses⟩
  case saves =>
    intro s t e hw _ hp hb ht image psw
    have hrun := xswitchOne_plain hp hb ht e (image := image) rfl
    obtain ⟨hpsw, hpc, hsp⟩ := wordAt_contextSaved hw hb image
    have hmask := contextSaved_psw image s
    rw [hmask] at hpsw
    cases hR : pswR image with
    | false =>
      rw [hR, if_neg Bool.false_ne_true] at hrun
      have hregs : OnlyRegs [.psw] s (contextSaved image s) :=
        fun _ hr => reg_contextSaved (List.ne_of_not_mem_cons hr) image s
      exact ⟨_, hrun, sameMachine_contextSaved image s, rfl, rfl, rfl, rfl, hmask, hpsw, hpc, hsp,
        fun _ => ⟨hregs, fun _ hx => peek_contextSaved hw image hx⟩, nofun⟩
    | true =>
      have hlen : (switchRegs.map (reg s)).length = 11 := List.length_map _
      obtain ⟨m, hstore, -, hrow⟩ := storeWords_plain (s := contextSaved image s) (e := e)
        (vs := switchRegs.map (reg s)) hp (wf_contextSaved hw image) (hb.add (k := 20) rfl) (hlen ▸ by decide)
      rw [hR, if_pos rfl, hstore] at hrun
      have keep0 := wordAt_registersSaved hb hlen hrow (k := 0) (by decide) rfl
      have keep4 := wordAt_registersSaved hb hlen hrow (k := 4) (by decide) rfl
      have keep8 := wordAt_registersSaved hb hlen hrow (k := 8) (by decide) rfl
      rw [BitVec.add_zero] at keep0
      obtain ⟨hregs, hframe⟩ := registersSaved_frame hw hrow
      obtain ⟨hap, hfp, hgeneral⟩ := wordsAt_switchRegs hrow
      exact ⟨registersSaved image m s, hrun, sameMachine_registersSaved image m s, rfl, rfl, rfl, rfl, hmask,
        keep0.trans hpsw, keep4.trans hpc, keep8.trans hsp, nofun,
        fun _ => ⟨hregs, rfl, hap, hfp, hgeneral, hframe⟩⟩
  case refuses =>
    intro s t e hbus hforced
    obtain ⟨u, hrun, hdenied⟩ | ⟨w, hrun, -, -, -, hgranted, hregs⟩ :=
      xswitchOne_reach (.refl hbus) hforced rfl t e
    · refine ⟨fun x v h => ?_, fun _ => ⟨u, hrun⟩, fun h => absurd h hdenied, fun _ _ _ _ _ _ => ⟨u, hrun⟩⟩
      rw [hrun, Except.error.injEq, Prod.mk.injEq] at h
      obtain ⟨rfl, -⟩ := h
      rfl
    · refine ⟨fun x v h => ?_, fun h => absurd h hgranted, fun _ => ⟨w, hrun⟩, fun q p hq hp hR => ?_⟩
      · rw [hrun] at h
        cases h
      · rintro ⟨k, hk, hun⟩
        exact absurd hun (hregs q p hq hp hR k hk)

end Sys2Proof.Machine
end

section
/-! The obligations on the encoding (spec/30_encoding.md). One lemma per format of R160: behind an opcode whose table entry
has that format the decoder reads back what was encoded. -/

namespace Sys2Proof

/-! ## Opcodes -/

/-- A first byte other than 0x30 is looked up in the one-byte map. -/
theorem decode_cons {b : Byte} (hb : b ≠ 0x30) (s : Stream) :
    decode (some b :: s) = parseFound (entryOne b) s := by
  simp only [decode, takeByte_cons, Parse.andThen, if_neg hb]

/-- Behind the byte 0x30 the second byte is looked up in the map of two-byte opcodes. -/
theorem decode_prefixed (b : Byte) (s : Stream) :
    decode (some 0x30 :: some b :: s) = parseFound (entryTwo b) s := by
  simp only [decode, takeByte_cons, Parse.andThen, if_true]

/-- A one-byte opcode with an entry, and what its entry makes of the encoded bytes that follow. -/
theorem decode_entry {b : Byte} {e : Entry} {l : List Byte} {rest : Stream} {r : Parse Instr}
    (he : entryOne b = some e) (hr : parseEntry e (bytes l ++ rest) = r) :
    decode ((b :: l).map some ++ rest) = r := by
  have hb : b ≠ 0x30 := by
    rintro rfl
    exact absurd he (by simp [entryOne, opcodes0, lookup])
  rw [List.map_cons, List.cons_append, decode_cons hb, he]
  exact hr

/-! ## Formats -/

section
variable {a b c d : Role} {x y z w : Operand} (rest : Stream)

theorem parse_op1 (h : [(a, x)].all (fun p => p.2.wellFormed p.1) = true) (mk : Operand → Instr) :
    parseEntry (.op1 a mk) (bytes x.encode ++ rest) = .ok (mk x, rest) := by
  simp only [List.all_cons, List.all_nil, Bool.and_true] at h
  exact withOperand_encode h _ _

theorem parse_op2 (h : [(a, x), (b, y)].all (fun p => p.2.wellFormed p.1) = true) (mk : Operand → Operand → Instr) :
    parseEntry (.op2 a b mk) (bytes (x.encode ++ y.encode) ++ rest) = .ok (mk x y, rest) := by
  simp only [List.all_cons, List.all_nil, Bool.and_true, Bool.and_eq_true] at h
  obtain ⟨hx, hy⟩ := h
  simp only [bytes, List.map_append, List.append_assoc]
  exact (withOperand_encode hx _ _).trans (withOperand_encode hy _ _)

theorem parse_op3 (h : [(a, x), (b, y), (c, z)].all (fun p => p.2.wellFormed p.1) = true)
    (mk : Operand → Operand → Operand → Instr) :
    parseEntry (.op3 a b c mk) (bytes (x.encode ++ y.encode ++ z.encode) ++ rest) = .ok (mk x y z, rest) := by
  simp only [List.all_cons, List.all_nil, Bool.and_true, Bool.and_eq_true] at h
  obtain ⟨hx, hy, hz⟩ := h
  simp only [bytes, List.map_append, List.append_assoc]
  exact (withOperand_encode hx _ _).trans ((withOperand_encode hy _ _).trans (withOperand_encode hz _ _))

theorem parse_op4 (h : [(a, x), (b, y), (c, z), (d, w)].all (fun p => p.2.wellFormed p.1) = true)
    (mk : Operand → Operand → Operand → Operand → Instr) :
    parseEntry (.op4 a b c d mk) (bytes (x.encode ++ y.encode ++ z.encode ++ w.encode) ++ rest) =
      .ok (mk x y z w, rest) := by
  simp only [List.all_cons, List.all_nil, Bool.and_true, Bool.and_eq_true] at h
  obtain ⟨hx, hy, hz, hw⟩ := h
  simp only [bytes, List.map_append, List.append_assoc]
  exact (withOperand_encode hx _ _).trans ((withOperand_encode hy _ _).trans
    ((withOperand_encode hz _ _).trans (withOperand_encode hw _ _)))

theorem parse_br16 (v : Half) (mk : BitVec 16 → Instr) :
    parseEntry (.br16 mk) (bytes (encodeHalf v) ++ rest) = .ok (mk v, rest) := by
  simp only [parseEntry, takeHalf_encode, Parse.andThen]

theorem parse_cp0 (v : Word) (mk : Word → Instr) :
    parseEntry (.cp0 mk) (bytes (encodeWord v) ++ rest) = .ok (mk v, rest) := by
  simp only [parseEntry, takeWord_encode, Parse.andThen]

theorem parse_cp1 (v : Word) (h : [(a, x)].all (fun p => p.2.wellFormed p.1) = true) (mk : Word → Operand → Instr) :
    parseEntry (.cp1 a mk) (bytes (encodeWord v ++ x.encode) ++ rest) = .ok (mk v x, rest) := by
  simp only [bytes, List.map_append, List.append_assoc, parseEntry, takeWord_encode, Parse.andThen]
  exact parse_op1 rest h (mk v)

theorem parse_cp2 (v : Word) (h : [(a, x), (b, y)].all (fun p => p.2.wellFormed p.1) = true)
    (mk : Word → Operand → Operand → Instr) :
    parseEntry (.cp2 a b mk) (bytes (encodeWord v ++ x.encode ++ y.encode) ++ rest) = .ok (mk v x y, rest) := by
  have hxy := parse_op2 rest h (mk v)
  simp only [bytes, List.map_append, List.append_assoc, parseEntry, takeWord_encode, Parse.andThen] at hxy ⊢
  exact hxy

end

/-! ## The obligations -/

/-- Every instruction but the three with ignored bytes reads back, with nothing of the bytes that follow consumed. -/
theorem decode_encode {i : Instr} (h : i.wellFormed = true) (rest : Stream) (h2 : i ≠ .nop2) (h3 : i ≠ .nop3)
    (hx : i ≠ .extop) : decode ((encode i).map some ++ rest) = .ok (canonical i, rest) := by
  cases i with
  | ret | cflush | bpt | wait | rgeq | rgtr | rlss | rleq | rcc | rgequ | rgtru | rcs | rlssu | rlequ | rvc | rnequ
  | rvs | reqlu | nop | rneq | rsb | reql => exact decode_entry (l := []) rfl rfl
  | mverno | enbvjmp | disvjmp | movblw | strend | intack | strcpy | retg | gate | callps | retps
  => exact decode_prefixed _ rest
  | bsbb v | bgeb v | bgb v | blb v | bleb v | bccb v | bgeub v | bgub v | bcsb v | blub v | bleub v | bvcb v
  | bneb67 v | bvsb v | beb6f v | bneb v | brb v | beb v => exact decode_entry rfl rfl
  | bsbh v | bgeh v | bgh v | blh v | bleh v | bcch v | bgeuh v | bguh v | bcsh v | bluh v | bleuh v | bvch v
  | bneh66 v | bvsh v | beh6e v | bneh v | brh v | beh v => exact decode_entry rfl (parse_br16 rest v _)
  | spop v => exact decode_entry rfl (parse_cp0 rest v _)
  | spoprd v x | spoprt v x | spopwd v x | spopwt v x | spoprs v x | spopws v x
  => exact decode_entry rfl (parse_cp1 rest v h _)
  | spopd2 v x y | spopt2 v x y | spops2 v x y => exact decode_entry rfl (parse_cp2 rest v h _)
  | save x | restore x | swapwi x | swaphi x | swapbi x | popw x | jmp x | tstw x | tsth x | tstb x | jsb x | clrw x
  | clrh x | clrb x | incw x | inch x | incb x | decw x | dech x | decb x | pushw x | pushaw x
  => exact decode_entry rfl (parse_op1 rest h _)
  | movaw x y | movtrw x y | call x y | bitw x y | bith x y | bitb x y | cmpw x y | cmph x y | cmpb x y | movw x y
  | movh x y | movb x y | mcomw x y | mcomh x y | mcomb x y | mnegw x y | mnegh x y | mnegb x y | addw2 x y
  | addh2 x y | addb2 x y | modw2 x y | modh2 x y | modb2 x y | mulw2 x y | mulh2 x y | mulb2 x y | divw2 x y
  | divh2 x y | divb2 x y | orw2 x y | orh2 x y | orb2 x y | xorw2 x y | xorh2 x y | xorb2 x y | andw2 x y
  | andh2 x y | andb2 x y | subw2 x y | subh2 x y | subb2 x y => exact decode_entry rfl (parse_op2 rest h _)
  | alsw3 x y z | arsw3 x y z | arsh3 x y z | arsb3 x y z | llsw3 x y z | llsh3 x y z | llsb3 x y z | lrsw3 x y z
  | rotw x y z | addw3 x y z | addh3 x y z | addb3 x y z | modw3 x y z | modh3 x y z | modb3 x y z | mulw3 x y z
  | mulh3 x y z | mulb3 x y z | divw3 x y z | divh3 x y z | divb3 x y z | orw3 x y z | orh3 x y z | orb3 x y z
  | xorw3 x y z | xorh3 x y z | xorb3 x y z | andw3 x y z | andh3 x y z | andb3 x y z | subw3 x y z | subh3 x y z
  | subb3 x y z => exact decode_entry rfl (parse_op3 rest h _)
  | insfw x y z w | insfh x y z w | insfb x y z w | extfw x y z w | extfh x y z w | extfb x y z w
  => exact decode_entry rfl (parse_op4 rest h _)
  | nop2 => exact absurd rfl h2
  | nop3 => exact absurd rfl h3
  | extop => exact absurd rfl hx

/-- Settles O2: decode_encode, and for the three instructions with ignored bytes the decoder stops at their opcode. -/
theorem decodeEncodeAgree : Obligations.DecodeEncodeAgree := by
  unfold Obligations.DecodeEncodeAgree
  intro i rest h
  by_cases hi : i ≠ .nop2 ∧ i ≠ .nop3 ∧ i ≠ .extop
  · obtain ⟨h2, h3, hx⟩ := hi
    exact ⟨rest, decode_encode h rest h2 h3 hx, fun _ _ _ => rfl⟩
  · obtain rfl | rfl | rfl : i = .nop2 ∨ i = .nop3 ∨ i = .extop := by tauto
    · exact ⟨_, decode_entry (e := .op0 .nop2) (l := [0]) rfl rfl, fun h2 => absurd rfl h2⟩
    · exact ⟨_, decode_entry (e := .op0 .nop3) (l := [0, 0]) rfl rfl, fun _ h3 => absurd rfl h3⟩
    · exact ⟨_, decode_entry (e := .op0 .extop) (l := [0]) rfl rfl, fun _ _ hx => absurd rfl hx⟩

end Sys2Proof
end

section
/-! The manual's byte strings and the unassigned opcodes (spec/30_encoding.md R158, R172). -/

namespace Sys2Proof

/-- Bytes that are the encoding of a well-formed instruction that is its own canonical form, and has no ignored bytes. -/
def Encodes (l : List Byte) (i : Instr) : Prop :=
  l = encode i ∧ i.wellFormed = true ∧ canonical i = i ∧ i ∉ [Instr.nop2, .nop3, .extop]

theorem decode_of_encodes {l : List Byte} {i : Instr} (h : Encodes l i) : decode (l.map some) = .ok (i, []) := by
  obtain ⟨rfl, hw, hc, hn⟩ := h
  simp only [List.mem_cons, List.not_mem_nil, or_false, not_or] at hn
  obtain ⟨h2, h3, hx⟩ := hn
  have := decode_encode hw [] h2 h3 hx
  rwa [hc, List.append_nil] at this

/-- Settles O1: each string is the encoding of its instruction, so the decoder reads it back. -/
theorem specWordsDecode : Obligations.SpecWordsDecode := by
  unfold Obligations.SpecWordsDecode
  refine ⟨fun e he => decode_of_encodes ?_, fun e he => decode_of_encodes ?_⟩ <;>
    · revert e
      unfold Encodes
      decide

/-- An opcode byte without an entry is no instruction. -/
theorem decode_unassigned {b : Byte} (h : b ≠ 0x30 ∧ (entryOne b).isNone = true) (rest : Stream) :
    decode (some b :: rest) = .error .illegalOpcode := by
  obtain ⟨hb, hn⟩ := h
  rw [decode_cons hb, Option.isNone_iff_eq_none.mp hn]
  rfl

/-- A number that is no key of a table has no entry in it. -/
theorem lookup_of_not_key {n : Nat} {table : List (Nat × Entry)} (h : n ∉ table.map Prod.fst) :
    lookup n table = none := by
  induction table with
  | nil => rfl
  | cons e rest ih =>
    obtain ⟨k, e⟩ := e
    rw [List.map_cons, List.mem_cons, not_or] at h
    have ne : Nat.beq k n = false := Bool.eq_false_iff.mpr fun eq => h.1 (Nat.eq_of_beq_eq_true eq).symm
    rw [lookup, ne, if_neg Bool.false_ne_true, ih h.2]

/-- The second bytes that are assigned are the keys of their table (30_encoding R157). -/
theorem entryTwo_of_not_mem {b : Byte}
    (h : b ∉ ([0x09, 0x0D, 0x13, 0x19, 0x1F, 0x2F, 0x35, 0x45, 0x61, 0xAC, 0xC8] : List Byte)) : entryTwo b = none := by
  refine lookup_of_not_key fun hk => h ?_
  have keys : opcodesPrefixed.map Prod.fst =
      ([0x09, 0x0D, 0x13, 0x19, 0x1F, 0x2F, 0x35, 0x45, 0x61, 0xAC, 0xC8] : List Byte).map BitVec.toNat := rfl
  rw [keys, List.mem_map] at hk
  obtain ⟨c, hc, same⟩ := hk
  rwa [← BitVec.eq_of_toNat_eq same]

/-- The numbers assigned to a first byte (30_encoding R156). -/
def assignedFirst : List Nat :=
  opcodes0.map Prod.fst ++ opcodes1.map Prod.fst ++ opcodes2.map Prod.fst ++ opcodes3.map Prod.fst

theorem entryOne_of_not_assigned {b : Byte} (h : b.toNat ∉ assignedFirst) : entryOne b = none := by
  simp only [assignedFirst, List.mem_append, not_or] at h
  obtain ⟨⟨⟨h0, h1⟩, h2⟩, h3⟩ := h
  simp only [entryOne]
  split
  · exact lookup_of_not_key h0
  · exact lookup_of_not_key h1
  · exact lookup_of_not_key h2
  · exact lookup_of_not_key h3

/-- The first bytes that are not assigned (30_encoding R156). -/
def unassignedFirst : List Byte :=
  [0x00, 0x01, 0x05, 0x09, 0x0A, 0x0B, 0x0D, 0x0E, 0x0F, 0x11, 0x12, 0x15, 0x16, 0x19, 0x1A, 0x1B, 0x1D, 0x21,
    0x25, 0x26, 0x29, 0x2D, 0x31, 0x35, 0x39, 0x3D, 0x41, 0x45, 0x49, 0x4D, 0x51, 0x55, 0x59, 0x5D, 0x61, 0x65, 0x69,
    0x6D, 0x71, 0x75, 0x79, 0x7D, 0x81, 0x85, 0x89, 0x8D, 0x91, 0x95, 0x98, 0x99, 0x9A, 0x9B, 0x9D, 0xA1, 0xA2, 0xA3,
    0xA5, 0xA9, 0xAD, 0xB1, 0xB5, 0xB9, 0xBD, 0xC1, 0xC2, 0xC3, 0xC5, 0xC9, 0xCD, 0xD1, 0xD5, 0xD6, 0xD7, 0xD9, 0xDA,
    0xDB, 0xDD, 0xE1, 0xE2, 0xE3, 0xE5, 0xE9, 0xED, 0xF1, 0xF5, 0xF9, 0xFD]

theorem unassignedFirst_not_assigned :
    (unassignedFirst.all fun b => b != 0x30 && assignedFirst.all fun n => !Nat.beq n b.toNat) = true := by
  decide +kernel

theorem entryOne_of_unassigned {b : Byte} (h : b ∈ unassignedFirst) : b ≠ 0x30 ∧ entryOne b = none := by
  have free := List.all_eq_true.mp unassignedFirst_not_assigned b h
  rw [Bool.and_eq_true] at free
  obtain ⟨ne, other⟩ := free
  refine ⟨bne_iff_ne.mp ne, entryOne_of_not_assigned fun hb => ?_⟩
  simpa using List.all_eq_true.mp other _ hb

/-- Settles O3: the bytes have no entry in the map of one-byte opcodes, or in that of two-byte opcodes. -/
theorem unassignedOpcodesAreIllegal : Obligations.UnassignedOpcodesAreIllegal := by
  unfold Obligations.UnassignedOpcodesAreIllegal
  refine ⟨fun b rest hb => decode_unassigned ?_ rest, fun b rest hb => ?_⟩
  · have free : b ≠ 0x30 ∧ entryOne b = none := entryOne_of_unassigned hb
    exact free.imp_right Option.isNone_iff_eq_none.mpr
  · rw [decode_prefixed, entryTwo_of_not_mem hb]
    rfl

end Sys2Proof
end

section
/-! The obligation on the invariant: every step keeps it. Every instruction is a chain of shared operations, each of which
keeps Held (Laws/Preserve); the shapes of instructions are in Laws/Shapes. -/

namespace Sys2Proof.Machine

/-! ## Operations of single instructions -/

theorem Held.push {calm : Bool} {s : State} (h : Held calm s) (v : Word) : Ends (Held calm) (Held calm) (push v s) :=
  (h.store _ _ _).bind fun _ hs => hs.setReg .sp _

theorem Held.callTo {s : State} (h : Held true s) (len : Nat) (target : Word) :
    Ends State.Inv (Held false) (callTo len target s) :=
  (h.push _).calm.bind fun _ hs => (hs.jump target).complete false

theorem inv_branch {taken : Bool} {len : Nat} {disp : Word} {s : State} (h : Held true s) {t : State}
    (e : branch taken len disp s = .next t) : t.Inv := by
  simp only [branch, Host.Outcome.next.injEq] at e
  subst e
  split
  · exact (h.jump _).complete false
  · exact (h.advance len).complete false

theorem inv_returnIf {taken : Bool} {s : State} (h : Held true s) {t : State} (e : returnIf taken s = .next t) :
    t.Inv := by
  refine ends_conclude ?_ e
  split
  · exact (h.load _ _).calm.bindWith fun _ _ hs => ((hs.setReg .sp _).jump _).complete false
  · exact (h.advance 1).complete false

theorem Held.finishIterating {s : State} (h : Held true s) : (finishIterating s).Inv :=
  Held.complete (Held.advance (s := { s with phase := .running }) h 2) false

/-- A state between two iterations has the invariant. -/
theorem Held.iterating {s : State} (h : Held true s) (k : Iteration) : State.Inv { s with phase := .iterating k } :=
  Held.inv_calm (s := { s with phase := .iterating k }) h

theorem Held.copyByte {s : State} (h : Held true s) : Ends State.Inv (Held false) (copyByte s) := by
  refine (h.loadAs _ _ _ _).calm.bindWith fun b s hs => (hs.storeAs _ _ _ _ _).calm.bind fun s hs => ?_
  split
  · exact hs.finishIterating
  · exact ((hs.setReg .r0 _).setReg .r1 _).iterating .strcpy

theorem Held.scanByte {s : State} (h : Held true s) : Ends State.Inv (Held false) (scanByte s) := by
  refine (h.loadAs _ _ _ _).calm.bindWith fun b s hs => ?_
  dsimp only
  split
  · exact hs.finishIterating
  · exact (hs.setReg .r0 _).iterating .strend

theorem Held.moveWord {s : State} (h : Held true s) : Ends State.Inv (Held false) (moveWord s) := by
  simp only [Machine.moveWord]
  split
  · exact h.finishIterating
  · exact (h.copyWord _).calm.bind fun s hs => hs.iterating .movblw

theorem Held.iterate {s : State} (h : Held true s) (k : Iteration) : Ends State.Inv (Held false) (iterate k s) := by
  cases k with
  | movblw => exact h.moveWord
  | strcpy => exact h.copyByte
  | strend => exact h.scanByte

theorem inv_swapShape {t : OType} {dst : Operand} {s : State} (h : Held true s) {w : State}
    (e : swapShape t dst s = .next w) : w.Inv := by
  refine ends_conclude (r := _) ?_ e
  exact (ends_checkOperands h.calm_false _).bind fun _ _ => (h.effectiveAddress _).calm.bindWith fun _ s h =>
    (h.loadAs _ _ _ _).calm.bindWith fun _ s h => ((h.setFlags _).put _ _ _ _ _).calm.bind fun s h =>
    ((h.setReg .r0 _).advance _).complete false

/-! ## The coprocessor -/

theorem Held.broadcast {calm : Bool} {s : State} (h : Held calm s) (word : Word) :
    Ends (Held calm) (Held calm) (broadcast word s) := by
  refine h.busTurn.bind fun s hs => ?_
  split
  · exact hs
  · exact hs

theorem Held.copFetch {calm : Bool} {s : State} (h : Held calm s) (n : Nat) (a : Word) :
    Ends (Held calm) (Held calm) (copFetch n a s) := by
  induction n generalizing s a with
  | zero => exact h
  | succ n ih => exact (h.loadAs _ _ _ _).bindWith fun w s hs => ih (s := { s with copBus := .operand w :: s.copBus }) hs _

theorem Held.copWrite {calm : Bool} {s : State} (h : Held calm s) (a : Word) (ws : List Word) :
    Ends (Held calm) (Held calm) (copWrite a ws s) := by
  induction ws generalizing s a with
  | nil => exact h
  | cons w rest ih => exact (h.storeAs _ _ _ _ _).bind fun s hs => ih hs _

theorem Held.copStatus {calm : Bool} {s : State} (h : Held calm s) :
    Ends (Held calm) (Held calm) (copStatus s) := by
  refine h.busTurn.bind fun s hs => ?_
  split
  · exact hs
  · exact hs.setFlags _

theorem Held.copFinish {s : State} (h : Held true s) (a : Word) (words len : Nat) :
    Ends State.Inv (Held false) (copFinish a words len s) := by
  simp only [Machine.copFinish]
  split
  · exact h.copStatus.calm.bind fun s hs => (hs.copWrite _ _).calm.bind fun s hs =>
      Held.complete (Held.advance (s := { s with phase := .running }) hs len) false
  · exact Held.inv_calm (s := { s with phase := .coprocessor a words len }) h

theorem inv_copPlain {word : Word} {s : State} (h : Held true s) {t : State} (e : copPlain word s = .next t) :
    t.Inv := by
  refine ends_conclude (r := _) ?_ e
  exact (h.broadcast _).calm.bind fun _ hs => hs.copFinish _ _ _

theorem inv_copRead {n : Nat} {word : Word} {src : Operand} {s : State} (h : Held true s) {t : State}
    (e : copRead n word src s = .next t) : t.Inv := by
  refine ends_conclude (r := _) ?_ e
  exact (ends_checkOperands h.calm_false _).bind fun _ _ => (h.effectiveAddress _).calm.bindWith fun _ s h =>
    (h.broadcast _).calm.bind fun _ h => (h.copFetch _ _).calm.bind fun _ h => h.copFinish _ _ _

theorem inv_copStore {n : Nat} {word : Word} {dst : Operand} {s : State} (h : Held true s) {t : State}
    (e : copStore n word dst s = .next t) : t.Inv := by
  refine ends_conclude (r := _) ?_ e
  exact (ends_checkOperands h.calm_false _).bind fun _ _ => (h.effectiveAddress _).calm.bindWith fun _ s h =>
    (h.broadcast _).calm.bind fun _ h => h.copFinish _ _ _

theorem inv_copBoth {n : Nat} {word : Word} {src dst : Operand} {s : State} (h : Held true s) {t : State}
    (e : copBoth n word src dst s = .next t) : t.Inv := by
  refine ends_conclude (r := _) ?_ e
  exact (ends_checkOperands h.calm_false _).bind fun _ _ => (h.effectiveAddress _).calm.bindWith fun _ s h =>
    (h.effectiveAddress _).calm.bindWith fun _ s h =>
    (h.broadcast _).calm.bind fun _ h => (h.copFetch _ _).calm.bind fun _ h => h.copFinish _ _ _

/-! ## Single instructions -/

theorem inv_movaw {src dst : Operand} {s : State} (h : Held true s) {t : State} (e : execMovaw src dst s = .next t) :
    t.Inv := by
  refine ends_conclude (r := _) ?_ e
  exact (ends_checkOperands h.calm_false _).bind fun _ _ => (ends_checkPrivilege h.calm_false _).bind fun _ _ =>
    (h.effectiveAddress _).calm.bindWith fun _ s h => (h.resolve _).calm.bindWith fun _ s h => h.finish _ _ _ _ _

theorem Held.translatedWord {calm : Bool} {s : State} (h : Held calm s) (a : Word) :
    Ends (HeldWith calm) (Held calm) (translatedWord a s) := by
  refine (h.dataTurn _ _).bind fun s hs => ?_
  split <;> exact hs

theorem inv_movtrw {src dst : Operand} {s : State} (h : Held true s) {t : State}
    (e : execMovtrw src dst s = .next t) : t.Inv := by
  refine ends_conclude (r := _) ?_ e
  exact (ends_checkOperands h.calm_false _).bind fun _ _ => (ends_checkPrivilege h.calm_false _).bind fun _ _ =>
    (h.effectiveAddress _).calm.bindWith fun _ s h => (h.translatedWord _).calm.bindWith fun _ s h =>
    (h.resolve _).calm.bindWith fun _ s h => h.finish _ _ _ _ _

theorem inv_jmp {dst : Operand} {s : State} (h : Held true s) {t : State} (e : execJmp dst s = .next t) : t.Inv := by
  refine ends_conclude (r := _) ?_ e
  exact (ends_checkOperands h.calm_false _).bind fun _ _ => (h.effectiveAddress _).calm.bindWith fun _ s h =>
    (h.jump _).complete false

theorem inv_jsb {dst : Operand} {s : State} (h : Held true s) {t : State} (e : execJsb dst s = .next t) : t.Inv := by
  refine ends_conclude (r := _) ?_ e
  exact (ends_checkOperands h.calm_false _).bind fun _ _ => (h.effectiveAddress _).calm.bindWith fun _ s h =>
    h.callTo _ _

theorem inv_call {src dst : Operand} {s : State} (h : Held true s) {t : State} (e : execCall src dst s = .next t) :
    t.Inv := by
  refine ends_conclude (r := _) ?_ e
  exact (ends_checkOperands h.calm_false _).bind fun _ _ => (h.effectiveAddress _).calm.bindWith fun _ s h =>
    (h.effectiveAddress _).calm.bindWith fun _ s h => (h.store _ _ _).calm.bind fun s h =>
    (h.store _ _ _).calm.bind fun s h => (((h.setReg .sp _).setReg .ap _).jump _).complete false

theorem inv_ret {s : State} (h : Held true s) {t : State} (e : execRet s = .next t) : t.Inv := by
  refine ends_conclude (r := _) ?_ e
  exact (h.load _ _).calm.bindWith fun _ s h => (h.load _ _).calm.bindWith fun _ s h =>
    (((h.setReg .sp _).setReg .ap _).jump _).complete false

theorem inv_save {x : Operand} {s : State} (h : Held true s) {t : State} (e : execSave x s = .next t) : t.Inv := by
  have hc := ends_checkOperands (Q := Held false) h.calm_false [(.regList, x)]
  simp only [execSave] at e
  split at e
  · rename_i he
    exact ends_conclude (by rw [he] at hc; exact hc) e
  · split at e
    · cases e
    · refine ends_conclude (r := _) ?_ e
      exact (h.storeWords _ _ _).calm.bind fun _ h => (((h.setReg .sp _).setReg .fp _).advance _).complete false

theorem inv_restore {x : Operand} {s : State} (h : Held true s) {t : State} (e : execRestore x s = .next t) :
    t.Inv := by
  have hc := ends_checkOperands (Q := Held false) h.calm_false [(.regList, x)]
  simp only [execRestore] at e
  split at e
  · rename_i he
    exact ends_conclude (by rw [he] at hc; exact hc) e
  · split at e
    · cases e
    · refine ends_conclude (r := _) ?_ e
      exact (h.load _ _).calm.bindWith fun _ s h => (h.loadRegs _ _ _).calm.bind fun _ h =>
        (((h.setReg .sp _).setReg .fp _).advance _).complete false

theorem inv_pushw {src : Operand} {s : State} (h : Held true s) {t : State} (e : execPushw src s = .next t) :
    t.Inv := by
  refine ends_conclude (r := _) ?_ e
  exact (ends_checkOperands h.calm_false _).bind fun _ _ => (h.readSource _ _).calm.bindWith fun _ s h =>
    ((h.applyFlags _ _).push _).calm.bind fun _ h => (h.advance _).complete false

theorem inv_pushaw {src : Operand} {s : State} (h : Held true s) {t : State} (e : execPushaw src s = .next t) :
    t.Inv := by
  refine ends_conclude (r := _) ?_ e
  exact (ends_checkOperands h.calm_false _).bind fun _ _ => (h.effectiveAddress _).calm.bindWith fun _ s h =>
    ((h.setFlags _).push _).calm.bind fun _ h => (h.advance _).complete false

theorem inv_popw {dst : Operand} {s : State} (h : Held true s) {t : State} (e : execPopw dst s = .next t) : t.Inv := by
  refine ends_conclude (r := _) ?_ e
  exact (ends_checkOperands h.calm_false _).bind fun _ _ => (ends_checkPrivilege h.calm_false _).bind fun _ _ =>
    (h.resolve _).calm.bindWith fun _ s h => (h.load _ _).calm.bindWith fun _ s h =>
    ((h.applyFlags _ _).writePlace _ _ _).calm.bind fun _ h => ((h.setReg .sp _).advance _).complete false

theorem inv_bpt {s : State} (h : Held true s) {t : State} (e : execBpt s = .next t) : t.Inv := by
  simp only [execBpt] at e
  split at e <;> cases e
  · exact (h.advance 1).complete false
  · exact held_raise (h.advance 1) _

/-! ## Operating system instructions -/

theorem ends_requireKernel {Q : State → Prop} {s : State} (q : Q s) : Ends (fun _ => True) Q (requireKernel s) :=
  Ends.check q

theorem inv_gate {s : State} (h : Held true s) {t : State} (e : execGate s = .next t) : t.Inv := by
  refine ends_conclude (r := _) ?_ e
  exact h.checkBounds.bind fun s h => (h.pushContext _ _).calm.bind fun s h => (h.gateMechanism _ _ _).bind fun s h =>
    h.jumped.complete false

theorem inv_retg {s : State} (h : Held true s) {t : State} (e : execRetg s = .next t) : t.Inv := by
  refine ends_conclude (r := _) ?_ e
  refine (h.load _ _).calm.bindWith fun saved s h => (h.load _ _).calm.bindWith fun pc s h => ?_
  dsimp only
  split
  · exact h.calm_false
  · exact (((h.setPsw _).setReg .sp _).jump pc).complete false

theorem inv_callps {s : State} (h : Held true s) {t : State} (e : execCallps s = .next t) : t.Inv := by
  refine ends_conclude (r := _) ?_ e
  exact (ends_requireKernel h.calm_false).bind fun _ _ => h.force.pushPcbp.bind fun s h =>
    (((h.setReg .pc _).setCodes 0 false 1).xswitchOne _ _).bind fun s h => (h.xswitchTwo _ _).bind fun s h =>
    (h.setCodes 7 false 3).xswitchThree _

theorem inv_retps {s : State} (h : Held true s) {t : State} (e : execRetps s = .next t) : t.Inv := by
  refine ends_conclude (r := _) ?_ e
  exact (ends_requireKernel h.calm_false).bind fun _ _ => ((h.setReg .isp _).force.load _ _).bindWith fun _ s h =>
    (h.load _ _).bindWith fun _ s h => ((h.setPsw _).xswitchTwo _ _).bind fun s h =>
    (h.setCodes 7 false 3).xswitchThree _

theorem Held.switchVirtual {s : State} (h : Held true s) (on : Bool) :
    Ends State.Inv (Held false) (switchVirtual on s) :=
  (ends_requireKernel h.calm_false).bind fun _ _ =>
    ((Held.flushCache (s := { s with virtualMode := on }) h).jump s.regs.r0).complete false

theorem inv_wait {s : State} (h : Held true s) {t : State} (e : execWait s = .next t) : t.Inv := by
  refine ends_conclude (r := _) ?_ e
  refine (ends_requireKernel h.calm_false).bind fun _ _ => ?_
  dsimp only
  split
  · exact (h.advance 1).complete false
  · exact Held.inv_calm (s := { advance 1 s with phase := .waiting, traceOpen := false }) (h.advance 1)

theorem Held.intackValue {calm : Bool} {s : State} (h : Held calm s) :
    Ends (HeldWith calm) (Held calm) (intackValue s) := by
  simp only [Machine.intackValue]
  split
  · exact h.busTurn.bind fun _ hs => hs
  · split
    · exact h.busTurn.bind fun _ hs => hs
    · exact (h.acknowledge _).bindWith fun _ _ hs => hs

theorem inv_intack {s : State} (h : Held true s) {t : State} (e : execIntack s = .next t) : t.Inv := by
  refine ends_conclude (r := _) ?_ e
  exact (ends_requireKernel h.calm_false).bind fun _ _ => h.intackValue.calm.bindWith fun _ s h =>
    ((h.setReg .r0 _).advance 2).complete false

/-- An outcome that is given as a state. -/
theorem inv_next {w t : State} (h : w.Inv) (e : (.next w : Outcome) = .next t) : t.Inv := by
  cases e
  exact h

/-! ## Every instruction -/

theorem inv_exec {i : Instr} {s t : State} (h : Held true s) (e : exec i s = .next t) : t.Inv := by
  cases i with
  | spoprd | spoprt | spoprs => exact inv_copRead h e
  | spopd2 | spopt2 | spops2 => exact inv_copBoth h e
  | movaw _ _ => exact inv_movaw h e
  | ret => exact inv_ret h e
  | movtrw _ _ => exact inv_movtrw h e
  | save _ => exact inv_save h e
  | spopwd | spopwt | spopws => exact inv_copStore h e
  | extop => exact inv_next (held_fault h _) e
  | restore _ => exact inv_restore h e
  | swapwi | swaphi | swapbi => exact inv_swapShape h e
  | popw _ => exact inv_popw h e
  | jmp _ => exact inv_jmp h e
  | cflush => exact inv_next ((h.flushCache.advance 1).complete false) e
  | tstw | tsth | tstb => exact inv_testShape h e
  | call _ _ => exact inv_call h e
  | bpt => exact inv_bpt h e
  | wait => exact inv_wait h e
  | spop => exact inv_copPlain h e
  | jsb _ => exact inv_jsb h e
  | bsbh | bsbb => exact ends_conclude (h.callTo _ _) e
  | bitw | bith | bitb => exact inv_compareShape h e
  | cmpw | cmph | cmpb => exact inv_compareShape (f := fun _ => compareFlags) h e
  | rgeq | rgtr | rlss | rleq | rcc | rgequ | rgtru | rcs | rlssu | rlequ | rvc | rnequ | rvs | reqlu | rneq | rsb
  | reql => exact inv_returnIf h e
  | bgeh | bgeb | bgh | bgb | blh | blb | bleh | bleb | bcch | bgeuh | bccb | bgeub | bguh | bgub | bcsh | bluh
  | bcsb | blub | bleuh | bleub | bvch | bvcb | bneh66 | bneb67 | bvsh | bvsb | beh6e | beb6f | bneh | bneb | brh
  | brb | beh | beb => exact inv_branch h e
  | nop => exact inv_next ((h.advance 1).complete false) e
  | nop3 => exact inv_next ((h.advance 3).complete false) e
  | nop2 => exact inv_next ((h.advance 2).complete false) e
  | clrw | clrh | clrb => exact inv_writeOnly h e
  | movw | movh | movb | mcomw | mcomh | mcomb | mnegw | mnegh | mnegb => exact inv_moveShape h e
  | incw | inch | incb => exact inv_readModify (f := fun t d => addResult t d oneValue) h e
  | decw | dech | decb => exact inv_readModify (f := fun t d => subResult t d oneValue) h e
  | addw2 | addh2 | addb2 | modw2 | modh2 | modb2 | mulw2 | mulh2 | mulb2 | divw2 | divh2 | divb2 | orw2 | orh2
  | orb2 | xorw2 | xorh2 | xorb2 | andw2 | andh2 | andb2 | subw2 | subh2 | subb2 => exact inv_twoAddress h e
  | pushw _ => exact inv_pushw h e
  | arsb3 | arsh3 | arsw3 => exact inv_threeAddress (f := arithmeticShiftResult) h e
  | alsw3 | llsb3 | llsh3 | llsw3 => exact inv_threeAddress (f := fun _ => leftShiftResult) h e
  | lrsw3 => exact inv_threeAddress (f := fun _ => rightShiftResult) h e
  | rotw => exact inv_threeAddress (f := fun _ => rotateResult) h e
  | addb3 | addh3 | addw3 => exact inv_threeAddress (f := fun _ => addResult) h e
  | subb3 | subh3 | subw3 => exact inv_threeAddress (f := fun _ => subResult) h e
  | mulb3 | mulh3 | mulw3 => exact inv_threeAddress (f := fun _ => mulResult3 s.free) h e
  | divb3 | divh3 | divw3 => exact inv_threeAddress (f := fun _ => divResult3 s.free) h e
  | modb3 | modh3 | modw3 => exact inv_threeAddress (f := fun _ => modResult3 s.free) h e
  | andb3 | andh3 | andw3 => exact inv_threeAddress (f := fun _ => andResult) h e
  | orb3 | orh3 | orw3 => exact inv_threeAddress (f := fun _ => orResult) h e
  | xorb3 | xorh3 | xorw3 => exact inv_threeAddress (f := fun _ => xorResult) h e
  | insfw | insfh | insfb => exact inv_insertShape h e
  | extfw | extfh | extfb => exact inv_extractShape h e
  | pushaw _ => exact inv_pushaw h e
  | mverno => exact inv_next (((h.setReg .r0 _).advance 2).complete false) e
  | enbvjmp | disvjmp => exact ends_conclude (h.switchVirtual _) e
  | movblw | strend | strcpy => exact ends_conclude (h.iterate _) e
  | intack => exact inv_intack h e
  | retg => exact inv_retg h e
  | gate => exact inv_gate h e
  | callps => exact inv_callps h e
  | retps => exact inv_retps h e

theorem inv_runInstruction {s t : State} (h : Held true s) (e : runInstruction s = .next t) : t.Inv := by
  have fetched := h.beginInstruction.instructionStream
  simp only [runInstruction] at e
  split at e <;> rename_i hf <;> rw [hf] at fetched
  · exact inv_next (held_fault fetched _) e
  · split at e
    · exact inv_exec (Held.keepQueue fetched _ _) e
    · exact inv_next (held_fault fetched _) e

/-- Where no block moves and no reset are under way kernel level is not forced. -/
theorem State.Inv.calm {s : State} (h : s.Inv) (hb : ∀ o c, s.phase ≠ .blockMoves o c) (hr : ∀ x, s.phase ≠ .resetting x) :
    Held true s := by
  obtain ⟨hm, hp, hf, hc⟩ := h
  refine ⟨hm, hp, fun _ => ?_, hc⟩
  simpa only [forcedOk, Bool.not_eq_true'] using hf

theorem phase_of_dataTurn {size : Size} {a : Word} {s t : State} (h : dataTurn size a s = .ok t) : t.phase = s.phase := by
  simp only [dataTurn, busTurn] at h
  split at h
  · cases h; rfl
  · split at h
    · cases h; rfl
    · split at h <;> cases h
      rfl

/-- Copying a word leaves the machine in the midst of what it was. -/
theorem phase_of_copyWord {x : Exn} {s t : State} (h : copyWord x s = .ok t) : t.phase = s.phase := by
  simp only [copyWord, bind, Except.bind] at h
  split at h
  · cases h
  · rename_i v hv
    obtain ⟨hread, -⟩ := loadAs_ok.mp hv
    split at h
    · cases h
    · rename_i w hw
      obtain ⟨u, q, hturn, -, rfl⟩ := storeAs_ok.mp hw
      cases h
      exact (phase_of_dataTurn hturn).trans (phase_of_dataTurn hread)

theorem Held.moveStep {s : State} (h : Held false s) (o : Switch) (c : Bool) (hp : s.phase = .blockMoves o c) :
    Ends State.Inv (Held false) (moveStep o c s) := by
  simp only [Machine.moveStep]
  split
  · split
    · exact h.nextBlock o
    · have copied := h.copyWord .newPcb
      cases hr : Machine.copyWord .newPcb s with
      | error x => rw [hr] at copied; exact copied
      | ok t =>
        rw [hr] at copied
        exact copied.inv (by rw [forcedOk, phase_of_copyWord hr, hp])
  · split
    · exact (h.setReg .r0 _).endSwitch o
    · refine (h.load _ _).bindWith fun v s h => ?_
      have := (h.setReg .r1 v).setReg .r0 (s.regs.r0 + 4)
      exact ⟨this.1, this.2.1, rfl, this.2.2.2⟩

theorem inv_byPhase {s t : State} (h : s.Inv) (e : byPhase s = .next t) : t.Inv := by
  simp only [byPhase] at e
  split at e
  case h_1 hp =>
    have hc : Held true s := h.calm (by simp [hp]) (by simp [hp])
    split at e
    · exact inv_next h e
    · split at e
      · exact inv_next (held_takeInterrupt hc) e
      · exact inv_runInstruction hc e
  case h_2 hp =>
    refine inv_next ?_ e
    split
    · exact held_takeInterrupt h.held
    · exact h
  case h_3 k hp =>
    split at e
    · exact inv_next (held_takeInterrupt h.held) e
    · exact ends_conclude ((h.calm (by simp [hp]) (by simp [hp])).iterate k) e
  case h_4 hp => exact ends_conclude ((h.calm (by simp [hp]) (by simp [hp])).copFinish _ _ _) e
  case h_5 o c hp => exact ends_moved (h.held.moveStep o c hp) e
  case h_6 => exact inv_next (held_runReset (h.held.recordCause _) _) e
  case h_7 => exact inv_next (held_runReset h.held _) e

/-- Settles O10: sampling the environment keeps the invariant, and so does every phase of the machine. -/
theorem stepKeepsInvariant : Obligations.StepKeepsInvariant := by
  unfold Obligations.StepKeepsInvariant
  intro s t h e
  have hs := h.sample
  simp only [step, cycle] at e
  split at e
  · exact inv_next (Held.inv (s := { sample s with phase := .resetting true }) hs.held rfl) e
  · exact inv_byPhase hs e

end Sys2Proof.Machine
end

section
/-! The obligations on one step: which instruction it runs, the decoding faults, interrupts, and the state after reset
(spec/30_encoding.md, 20_memory.md R118, 60_exceptions.md R514, R530). -/

namespace Sys2Proof.Machine

/-! ## Bits of a word -/

/-- A merge, bit by bit. -/
theorem getLsbD_merge (mask v w : Word) {i : Nat} (hi : i < 32) :
    (merge mask v w).getLsbD i = if mask.getLsbD i then v.getLsbD i else w.getLsbD i := by
  simp only [merge, BitVec.getLsbD_or, BitVec.getLsbD_and, BitVec.getLsbD_not, hi, decide_true, Bool.true_and]
  cases mask.getLsbD i <;> simp

/-- ET, TM and ISC in their places (10_state R34 to R36). -/
theorem getLsbD_codes (isc : BitVec 4) (tm : Bool) (et : BitVec 2) {i : Nat} (hi : i < 32) :
    (codes isc tm et).getLsbD i =
      if i < 2 then et.getLsbD i else if i = 2 then tm else isc.getLsbD (i - 3) := by
  simp only [codes, BitVec.zeroExtend, BitVec.getLsbD_setWidth, BitVec.getLsbD_append, hi, decide_true, Bool.true_and]
  by_cases h2 : i < 2
  · simp [h2]
  · by_cases h3 : i = 2
    · simp [h3]
    · simp [h2, h3, show ¬i - 2 < 1 by omega, show i - 2 - 1 = i - 3 by omega]

/-- Setting TM replaces bit 2 (10_state R35). -/
theorem withTm_true (w : Word) : withTm true w = w &&& ~~~0x7 ||| (w &&& 0x3 ||| 0x4) := by
  apply BitVec.eq_of_getLsbD_eq
  intro i hi
  rw [withTm, withCodes, getLsbD_merge _ _ _ hi]
  rw [getLsbD_codes _ _ _ hi]
  interval_cases i <;> simp [maskCodes, pswIsc, pswEt]

/-- TM is none of the flags. -/
theorem flags_beginInstruction (s : State) : flags (beginInstruction s) = flags s := by
  show pswFlags (withTm true s.regs.psw &&& maskPsw) = pswFlags s.regs.psw
  apply BitVec.eq_of_getLsbD_eq
  intro i hi
  rw [withTm_true]
  interval_cases i <;> simp [pswFlags, maskPsw]

/-! ## The instruction that runs -/

/-- With no reset request, no STOP and no interrupt a running machine runs an instruction. -/
theorem step_running {s : State} (hp : (sample s).phase = .running) (hr : (sample s).inputs.resetr = false)
    (hs : (sample s).inputs.stop = false) (hi : interruptAccepted (sample s) = false) :
    step s = runInstruction (sample s) := by
  simp only [step, cycle, hr, byPhase, hp, hs, interruptDue, hi, Bool.false_and, Bool.false_eq_true, if_false]

/-- The bytes fetched decode: the instruction is executed, its bytes gone from the queue. -/
theorem runInstruction_ok {s t : State} {bytes rest : Stream} {held : Words} {i : Instr}
    (hf : instructionStream (beginInstruction s) = .ok (bytes, held, t)) (hd : decode bytes = .ok (i, rest)) :
    runInstruction s = exec i (keepQueue (encode i).length held t) := by
  simp only [runInstruction, hf, hd]

theorem keepQueue_eq (len : Nat) (held : Words) (t : State) :
    keepQueue len held t = { t with iqueue := (keepQueue len held t).iqueue } := rfl

theorem iqueue_keepQueue (len : Nat) (held : Words) (t : State) :
    (keepQueue len held t).iqueue = ((queued t).drop len ++
      wordsBytes held (t.regs.pc + BitVec.ofNat 32 (len + ((queued t).drop len).length)) t.inputs.queueKeep).take 8 :=
  rfl

/-- Settles O4. -/
theorem stepRunsTheDecodedInstruction : Obligations.StepRunsTheDecodedInstruction := by
  unfold Obligations.StepRunsTheDecodedInstruction
  intro s t i bytes rest held hp hr hs hi hf hd
  refine ⟨⟨(keepQueue (encode i).length held t).iqueue, ?runs, ?bound, ?nothing⟩, ?quiet, ?begun⟩
  case runs => rw [step_running hp hr hs hi, runInstruction_ok hf hd, ← keepQueue_eq]
  case bound => exact List.length_take_le _ _
  case nothing =>
    intro h0
    rw [iqueue_keepQueue, h0, wordsBytes, List.append_nil, queued]
  case quiet => exact fun hb => instructionStream_quiet (s := beginInstruction (sample s)) hb hf
  case begun => rw [← withTm_true, flags_beginInstruction]; rfl

/-! ## The instruction stored at the program counter -/

theorem encode_length_le (i : Instr) : (encode i).length ≤ 25 := by
  suffices Laws.Bounded (encode i) from this.2
  cases i with
  | save x | restore x | swapwi x | swaphi x | swapbi x | popw x | jmp x | tstw x | tsth x | tstb x | jsb x | clrw x
  | clrh x | clrb x | incw x | inch x | incb x | decw x | dech x | decb x | pushw x | pushaw x
  => exact Laws.bounded_one _ x
  | movaw x y | movtrw x y | call x y | bitw x y | bith x y | bitb x y | cmpw x y | cmph x y | cmpb x y | movw x y
  | movh x y | movb x y | mcomw x y | mcomh x y | mcomb x y | mnegw x y | mnegh x y | mnegb x y | addw2 x y
  | addh2 x y | addb2 x y | modw2 x y | modh2 x y | modb2 x y | mulw2 x y | mulh2 x y | mulb2 x y | divw2 x y
  | divh2 x y | divb2 x y | orw2 x y | orh2 x y | orb2 x y | xorw2 x y | xorh2 x y | xorb2 x y | andw2 x y
  | andh2 x y | andb2 x y | subw2 x y | subh2 x y | subb2 x y => exact Laws.bounded_two _ x y
  | alsw3 x y z | arsw3 x y z | arsh3 x y z | arsb3 x y z | llsw3 x y z | llsh3 x y z | llsb3 x y z | lrsw3 x y z
  | rotw x y z | addw3 x y z | addh3 x y z | addb3 x y z | modw3 x y z | modh3 x y z | modb3 x y z | mulw3 x y z
  | mulh3 x y z | mulb3 x y z | divw3 x y z | divh3 x y z | divb3 x y z | orw3 x y z | orh3 x y z | orb3 x y z
  | xorw3 x y z | xorh3 x y z | xorb3 x y z | andw3 x y z | andh3 x y z | andb3 x y z | subw3 x y z | subh3 x y z
  | subb3 x y z => exact Laws.bounded_three _ x y z
  | insfw x y z w | insfh x y z w | insfb x y z w | extfw x y z w | extfh x y z w | extfb x y z w
  => exact Laws.bounded_four _ x y z w
  | spoprd v x | spoprt v x | spopwd v x | spopwt v x | spoprs v x | spopws v x => exact Laws.bounded_word_one _ v x
  | spopd2 v x y | spopt2 v x y | spops2 v x y => exact Laws.bounded_word_two _ v x y
  | bsbb | bgeb | bgb | blb | bleb | bccb | bgeub | bgub | bcsb | blub | bleub | bvcb | bneb67 | bvsb | beb6f | bneb
  | brb | beb => exact Laws.bounded_short (.inr (.inl rfl))
  | bsbh | bgeh | bgh | blh | bleh | bcch | bgeuh | bguh | bcsh | bluh | bleuh | bvch | bneh66 | bvsh | beh6e | bneh
  | brh | beh => exact Laws.bounded_short (.inr (.inr (.inl rfl)))
  | spop => exact Laws.bounded_short (.inr (.inr (.inr rfl)))
  | _ => exact Laws.bounded_short (by decide)

theorem encode_canonical (i : Instr) : encode (canonical i) = encode i := by
  cases i <;> rfl

theorem wellFormed_canonical (i : Instr) : (canonical i).wellFormed = i.wellFormed := by
  cases i <;> rfl

/-- Fetching in a plain state, nothing in the cache or the queue, from the k bytes of i that are read on: the bytes are
those of memory, so the decoder has what it needs with the last byte of i at the latest (30_encoding R121, R123). -/
theorem fetchFrom_stored {s : State} (hp : Plain s) (hc : ∀ a, cachedByte s a = none) (hq : s.iqueue = []) {i : Instr}
    (hw : i.wellFormed = true) {tail : Stream} (hd : decode ((encode i).map some) = .ok (i, tail))
    (hm : ∀ k, k < (encode i).length → peek s.mem (s.regs.pc + BitVec.ofNat 32 k) = (encode i).getD k 0)
    (n k : Nat) (hk : k < (encode i).length) (hn : (encode i).length ≤ k + n) {held : Words} (hh : Fresh s.mem held) :
    ∃ bytes held' t, fetchFrom n (((encode i).take k).map some) held (s.regs.pc + BitVec.ofNat 32 k) s =
      .ok (bytes, held', s) ∧ Fresh s.mem held' ∧ decode bytes = .ok (i, t) := by
  induction n generalizing k held with
  | zero => omega
  | succ n ih =>
    obtain ⟨held', hb, hh'⟩ := fetchByte_plain hp hc hq hh (s.regs.pc + BitVec.ofNat 32 k)
    have read : ((encode i).take k).map some ++ [some (peek s.mem (s.regs.pc + BitVec.ofNat 32 k))] =
        ((encode i).take (k + 1)).map some := by
      rw [hm k hk, List.take_add_one, List.map_append, List.getD_eq_getElem?_getD, List.getElem?_eq_getElem hk]
      rfl
    have split : ((encode i).map some : Stream) = ((encode i).take (k + 1)).map some ++ ((encode i).drop (k + 1)).map some := by
      rw [← List.map_append, List.take_append_drop]
    simp only [fetchFrom, hb, bind, Except.bind, read, Option.isSome_some, Bool.true_and]
    obtain more | ⟨t, done⟩ := decode_prefix hw (split ▸ hd)
    · have hk' : k + 1 < (encode i).length := by
        by_contra hend
        rw [List.take_of_length_le (Nat.le_of_not_lt hend), hd] at more
        cases more
      rw [if_pos (by simp only [unfinished, more]), BitVec.add_assoc, show (1 : Word) = BitVec.ofNat 32 1 from rfl,
        ← BitVec.ofNat_add]
      exact ih (k + 1) hk' (by omega) hh'
    · rw [if_neg (by rw [unfinished, done]; exact Bool.false_ne_true)]
      exact ⟨_, held', t, rfl, hh', done⟩

/-- Settles O5. -/
theorem stepRunsTheStoredInstruction : Obligations.StepRunsTheStoredInstruction := by
  unfold Obligations.StepRunsTheStoredInstruction
  intro s i hw hp hup hr hst hi hplain hic hiq hcc hm
  let b : State := beginInstruction { s with free := s.free + 1 }
  have sampled : sample s = { s with free := s.free + 1 } := by simp only [sample, hup]
  have uncached : ∀ a, cachedByte b a = none := by
    intro a
    show (if pswCd b.regs.psw then none else if s.cacheCorrupt then _ else s.icache.lookup a) = none
    simp [hcc, hic]
  obtain ⟨tail, hd, -⟩ := decodeEncodeAgree i [] hw
  rw [List.append_nil, ← encode_canonical] at hd
  rw [← encode_canonical] at hm ⊢
  have hpos : 0 < (encode (canonical i)).length := by
    refine List.length_pos_iff.mpr fun h => ?_
    rw [h] at hd
    cases hd
  obtain ⟨bytes, held, rest, hf, hfresh, hdec⟩ := fetchFrom_stored (s := b) hplain uncached hiq
    ((wellFormed_canonical i).trans hw) hd hm maxLength 0 hpos
    (by rw [Nat.zero_add]; exact encode_length_le _) (held := []) (fun _ he => absurd he (List.not_mem_nil))
  rw [BitVec.add_zero] at hf
  have hrun := runInstruction_ok (s := { s with free := s.free + 1 }) hf hdec
  have noQueue : queued b = [] := by
    simp only [queued, show b.iqueue = [] from hiq, ite_self]
  have hqueue := iqueue_keepQueue (encode (canonical i)).length held b
  rw [noQueue, List.drop_nil, List.nil_append, List.length_nil] at hqueue
  obtain ⟨hlen, hbytes⟩ := hfresh.wordsBytes (b.regs.pc + BitVec.ofNat 32 ((encode (canonical i)).length + 0))
    b.inputs.queueKeep
  refine ⟨(keepQueue (encode (canonical i)).length held b).iqueue, ?_, ?_, fun k hk => ?_⟩
  · rw [step_running (sampled ▸ hp) (sampled ▸ hr) (sampled ▸ hst) (sampled ▸ hi), sampled, hrun, ← keepQueue_eq]
  · rw [hqueue]
    exact (List.length_take_le' _ _).trans hlen
  · rw [hqueue] at hk ⊢
    obtain ⟨h8, hl⟩ := Nat.lt_min.mp (List.length_take ▸ hk)
    rw [List.getElem?_take_of_lt h8, hbytes k hl, Nat.add_zero, BitVec.add_assoc, ← BitVec.ofNat_add]
    rfl

/-! ## Bytes that are no instruction -/

/-- Only a reset request ends the computation early. -/
def OnlyReset {α : Type} (r : Run α) : Prop := ∀ e t, r = .error (e, t) → e = .externalReset

theorem onlyReset_ok {α : Type} (x : α) : OnlyReset (.ok x : Run α) := fun _ _ h => nomatch h

theorem OnlyReset.bind {α β : Type} {r : Run α} {f : α → Run β} (h : OnlyReset r) (g : ∀ x, OnlyReset (f x)) :
    OnlyReset (r >>= f) := by
  cases r with
  | error x => exact fun e t he => h e t (by cases he; rfl)
  | ok x => exact g x

theorem onlyReset_busTurn (s : State) : OnlyReset (busTurn s) := by
  intro e t h
  simp only [busTurn] at h
  split at h
  · cases h
  · split at h <;> cases h
    rfl

theorem onlyReset_fetchWords (a : Word) (s : State) : OnlyReset (fetchWords a s) := by
  refine (onlyReset_busTurn s).bind fun s => ?_
  split
  · exact (onlyReset_busTurn s).bind fun _ => onlyReset_ok _
  · exact onlyReset_ok _

theorem onlyReset_fetchByte (held : Words) (a : Word) (s : State) : OnlyReset (fetchByte held a s) := by
  simp only [fetchByte]
  split
  · exact onlyReset_ok _
  · exact (onlyReset_fetchWords a s).bind fun _ => onlyReset_ok _

theorem onlyReset_fetchFrom (n : Nat) (bytes : Stream) (held : Words) (a : Word) (s : State) :
    OnlyReset (fetchFrom n bytes held a s) := by
  induction n generalizing bytes held a s with
  | zero => exact onlyReset_ok _
  | succ n ih =>
    refine (onlyReset_fetchByte held a s).bind fun x => ?_
    dsimp only
    split
    · exact ih _ _ _ _
    · exact onlyReset_ok _

/-- Settles O6. -/
theorem stepTakesTheDecodingFault : Obligations.StepTakesTheDecodingFault := by
  unfold Obligations.StepTakesTheDecodingFault
  intro s t hp hr hs hi
  rw [step_running hp hr hs hi]
  refine ⟨fun bytes held d e hde hf hd => ?_, fun e hf => ?_⟩
  · have exception : decodeExn d = e := by
      simp only [List.mem_cons, Prod.mk.injEq, List.not_mem_nil, or_false] at hde
      obtain ⟨rfl, rfl⟩ | ⟨rfl, rfl⟩ | ⟨rfl, rfl⟩ | ⟨rfl, rfl⟩ := hde <;> rfl
    simp only [runInstruction, hf, hd, exception]
  · obtain rfl := onlyReset_fetchFrom _ _ _ _ _ e t hf
    simp only [runInstruction, hf]
    rfl

/-! ## Interrupts -/

theorem interruptAccepted_iff (s : State) :
    interruptAccepted s = true ↔ s.inputs.nmint = true ∨ (pswIpl s.regs.psw).toNat < (~~~s.inputs.ipl).toNat := by
  simp [interruptAccepted, requestLevel, BitVec.ult]

theorem interruptDue_eq_true {s : State} (hs : s.inputs.stop = false) (h : interruptAccepted s = true) :
    interruptDue s = true := by simp [interruptDue, h, hs]

theorem interruptDue_eq_false {s : State} (h : s.inputs.stop = true ∨ ¬interruptAccepted s = true) :
    interruptDue s = false := by
  obtain h | h := h <;> simp [interruptDue, h]

theorem cycle_byPhase {s : State} (h : s.inputs.resetr = false) : cycle s = byPhase s := by simp [cycle, h]

/-- Settles O7. -/
theorem interruptsAreMaskedByLevel : Obligations.InterruptsAreMaskedByLevel := by
  unfold Obligations.InterruptsAreMaskedByLevel
  intro t due
  have accepted : due = (interruptAccepted t = true) := propext (interruptAccepted_iff t).symm
  clear_value due
  subst accepted
  refine ⟨fun hr => by simp [cycle, hr], fun hr => ?_⟩
  rw [cycle_byPhase hr]
  refine ⟨?stopped, ?taken, ?masked, ?woken, ?waits, ?between, ?iterates, ?cop, ?moves, ?external, ?internal⟩
  case stopped => intro hp hs; simp [byPhase, hp, hs]
  case taken => intro hp hs hd; simp [byPhase, hp, hs, interruptDue_eq_true hs hd]
  case masked => intro hp hs hd; simp [byPhase, hp, hs, interruptDue_eq_false (.inr hd)]
  case woken => intro hp hs hd; simp [byPhase, hp, interruptDue_eq_true hs hd]
  case waits => intro hp hd; simp [byPhase, hp, interruptDue_eq_false hd]
  case between => intro k hp hs hd; simp [byPhase, hp, interruptDue_eq_true hs hd]
  case iterates => intro k hp hd; simp [byPhase, hp, interruptDue_eq_false hd]
  case cop => intro a n len hp; simp [byPhase, hp]
  case moves => intro o c hp; simp [byPhase, hp]
  case external => intro hp; simp [byPhase, hp]
  case internal => intro hp; simp [byPhase, hp]

/-! ## The state after reset -/

/-- Settles O8. -/
theorem resetState : Obligations.ResetState := by
  unfold Obligations.ResetState
  decide

/-- Settles O9. -/
theorem resetHasInvariant : Obligations.ResetHasInvariant := by
  unfold Obligations.ResetHasInvariant State.Inv
  exact ⟨by decide, fun _ size a v h => wf_writeData h size a v⟩

end Sys2Proof.Machine
end

section
/-! The obligations on operands: what they read as, their addresses, alignment, and the checks before anything is read
(spec/30_encoding.md R129 to R152, 20_memory.md R82). -/

namespace Sys2Proof.Machine

/-! ## Sources -/

theorem pswFlags_of_withFlags (f : BitVec 4) (w : Word) : pswFlags (withFlags f w) = f := by
  apply BitVec.eq_of_getLsbD_eq
  intro i hi
  interval_cases i <;> simp [pswFlags, withFlags, merge, maskFlags]

theorem withFlags_other_bits (f : BitVec 4) (w : Word) : withFlags f w &&& ~~~maskFlags = w &&& ~~~maskFlags := by
  apply BitVec.eq_of_getLsbD_eq
  intro i hi
  rw [BitVec.getLsbD_and, BitVec.getLsbD_and, BitVec.getLsbD_not, withFlags, getLsbD_merge _ _ _ hi]
  cases maskFlags.getLsbD i <;> simp

/-- What a read of %psw delivers: the PSW, its flags perhaps those of before (70_reset_and_hazards R610). -/
theorem readPsw_flags (s : State) :
    (pswFlags (readPsw s) = flags s ∨ pswFlags (readPsw s) = s.prevFlags) ∧
      readPsw s &&& ~~~maskFlags = s.regs.psw &&& ~~~maskFlags := by
  simp only [readPsw]
  split
  · exact ⟨.inl rfl, rfl⟩
  · split
    · exact ⟨.inr (pswFlags_of_withFlags _ _), withFlags_other_bits _ _⟩
    · exact ⟨.inl rfl, rfl⟩

/-- Settles O12. -/
theorem sourceModes : Obligations.SourceModes := by
  unfold Obligations.SourceModes
  intro s t
  refine ⟨fun v => ?literal, fun v => ?negative, fun v => ⟨_, rfl, rfl, rfl⟩, fun v => ⟨_, rfl, rfl, rfl⟩,
    fun v => ?word, fun r hr => ?register, ?psw, fun r v hb hv => ?deferred⟩
  case literal =>
    have read : literalValue (v.zeroExtend 32) = { bits := BitVec.ofNat 32 v.toNat, int := v.toNat } := by
      revert v
      decide
    rw [readSource, read]
  case negative =>
    have read : literalValue (((15 : BitVec 4) ++ v).signExtend 32) =
        { bits := BitVec.ofInt 32 (v.toNat - 16), int := v.toNat - 16 } := by
      revert v
      decide
    rw [readSource, read]
  case word => simp only [readSource, signedDatum, unsignedDatum, ite_self]
  case register => exact ⟨valueOf t (reg s r), by simp only [readSource, registerValue, if_neg hr], rfl, rfl⟩
  case psw => exact ⟨_, rfl, rfl, readPsw_flags s⟩
  case deferred =>
    have read : readSource t (.deferred r) s = .ok (valueOf t v, s) := by
      simp only [readSource, effectiveAddress, readMemory, loadAs_quiet hb hv, bind, Except.bind]
    exact ⟨_, read, rfl, rfl⟩

/-! ## Addresses -/

theorem readPointer_quiet {s : State} {a v : Word} (h : s.bus = [] ∧ memRead s .addressFetch .word a = some v) :
    readPointer a s = .ok (v, s) := loadAs_quiet h.1 h.2 _

/-- Settles O13. -/
theorem effectiveAddresses : Obligations.EffectiveAddresses := by
  unfold Obligations.EffectiveAddresses
  intro s r n d8 d16 d32 a v pointer
  have offset : n.zeroExtend 32 = BitVec.ofNat 32 n.toNat := (BitVec.ofNat_toNat 32 n).symm
  exact ⟨rfl, by rw [effectiveAddress, offset]; rfl, by rw [effectiveAddress, offset]; rfl, rfl, rfl, rfl, rfl,
    readPointer_quiet, readPointer_quiet, readPointer_quiet, readPointer_quiet⟩

/-! ## Alignment -/

theorem misaligned_half (a : Word) : misaligned .half a = decide (a.toNat % 2 ≠ 0) := by
  simp only [misaligned, BitVec.getLsbD, Nat.testBit, Nat.shiftRight_zero, Nat.one_and_eq_mod_two]
  obtain h | h : a.toNat % 2 = 0 ∨ a.toNat % 2 = 1 := by omega
  all_goals rw [h]; rfl

theorem misaligned_word (a : Word) : misaligned .word a = decide (a.toNat % 4 ≠ 0) := by
  have h := aligned_iff (a := a)
  simp only [Aligned] at h
  cases hm : misaligned .word a <;> simp_all

theorem dataTurn_misaligned {size : Size} {a : Word} (h : misaligned size a = true) (s : State) :
    dataTurn size a s = .ok s := by simp only [dataTurn, h, if_true]

/-- A misaligned access ends in its exception, the environment having had no turn (20_memory R82). -/
theorem access_misaligned {size : Size} {a : Word} (h : misaligned size a = true) (st : Status) (e : Exn) (v : Word)
    (s : State) : loadAs st size e a s = .error (e, s) ∧ storeAs st size e a v s = .error (e, s) := by
  constructor
  · simp only [loadAs, dataTurn_misaligned h, bind, Except.bind, memRead, readReach, h, if_true, Option.map_none]
  · simp only [storeAs, dataTurn_misaligned h, bind, Except.bind, put, memWrite, writeReach, h, if_true,
      Option.map_none]

/-- The turn before an aligned access: what another master writes is written, and a reset request is taken (20_memory
R101, 60_exceptions R514). -/
theorem dataTurn_event {s : State} {b : BusEvent} {rest : List BusEvent} (hb : s.bus = b :: rest) {size : Size}
    {a : Word} (ha : misaligned size a = false) :
    let t := { s with bus := rest, mem := busWritten s.mem b.writes, inputs := b.inputs.getD s.inputs }
    dataTurn size a s = if t.inputs.resetr then .error (.externalReset, t) else .ok t := by
  simp only [dataTurn, ha, Bool.false_eq_true, if_false, busTurn, hb]

/-- The state after the environment's turn b. -/
def State.turned (s : State) (b : BusEvent) (rest : List BusEvent) : State :=
  { s with bus := rest, mem := busWritten s.mem b.writes, inputs := b.inputs.getD s.inputs }

theorem dataTurn_goes {s : State} {b : BusEvent} {rest : List BusEvent} (hb : s.bus = b :: rest) {size : Size} {a : Word}
    (ha : misaligned size a = false) (hr : (b.inputs.getD s.inputs).resetr = false) :
    dataTurn size a s = .ok (s.turned b rest) :=
  (dataTurn_event hb ha).trans (if_neg (Bool.not_eq_true _ ▸ hr))

theorem dataTurn_resets {s : State} {b : BusEvent} {rest : List BusEvent} (hb : s.bus = b :: rest) {size : Size} {a : Word}
    (ha : misaligned size a = false) (hr : (b.inputs.getD s.inputs).resetr = true) :
    dataTurn size a s = .error (.externalReset, s.turned b rest) :=
  (dataTurn_event hb ha).trans (if_pos hr)

/-- Physical addressing and memory alone answering: an aligned access reaches its own address. -/
theorem access_memory {s : State} (hv : s.virtualMode = false) (hr : s.inputs.replies = []) (st : Status)
    (size : BusSize) (kind : Kind) (a v : Word) : access s st size kind a v = some (.memory a) := by
  simp [access, reply, hr, translate, translating, hv]

/-- Settles O15. -/
theorem misalignedAccessesFault : Obligations.MisalignedAccessesFault := by
  unfold Obligations.MisalignedAccessesFault
  refine ⟨fun s st e a v => ⟨fun h => ?half, fun h => ?word, fun hp => ?aligned⟩,
    fun s b rest st size e a v hb ha hv => ⟨fun hr => ?reset, fun hr hm => ?turn⟩⟩
  case half => exact access_misaligned (by rw [misaligned_half]; exact decide_eq_true h) st e v s
  case word => exact access_misaligned (by rw [misaligned_word]; exact decide_eq_true h) st e v s
  case aligned =>
    have reads : ∀ size, misaligned size a = false → (memRead s st size a).isSome = true :=
      fun size h => by rw [memRead_plain hp h]; rfl
    exact ⟨reads .byte rfl, fun h => reads .half (by rw [misaligned_half, h]; rfl),
      fun h => reads .word (by rw [misaligned_word, h]; rfl)⟩
  case reset =>
    simp only [loadAs, storeAs, dataTurn_resets hb ha hr, bind, Except.bind]
    exact ⟨rfl, rfl⟩
  case turn =>
    have turn := dataTurn_goes hb ha hr
    have reach : ∀ kind v, access (s.turned b rest) st size.bus kind a v = some (.memory a) :=
      fun kind v => access_memory (s := s.turned b rest) hv hm st size.bus kind a v
    have read : memRead (s.turned b rest) st size a = some (readData (s.turned b rest).mem size a) := by
      rw [memRead, readReach, ha, if_neg Bool.false_ne_true, reach]
      rfl
    have write : writeReach (s.turned b rest) st size a v = some (.memory a) := by
      rw [writeReach, ha, if_neg Bool.false_ne_true, reach]
    exact ⟨loadAs_ok.mpr ⟨turn, read⟩, storeAs_ok.mpr ⟨s.turned b rest, .memory a, turn, write, rfl⟩⟩

/-! ## Checks that fail -/

theorem checkOperands_bad {os : List (Role × Operand)} {s : State} (h : ∃ e ∈ os, e.1.accepts e.2 = false) :
    checkOperands os s = .error (.invalidDescriptor, s) := by
  obtain ⟨e, he, hbad⟩ := h
  have : os.all (fun p => p.1.accepts p.2) = false :=
    List.all_eq_false.mpr ⟨e, he, by simp [hbad]⟩
  simp only [checkOperands, this, Bool.false_eq_true, if_false]

/-- An instruction begins with the check of its operands; what follows is never reached. -/
theorem conclude_bad {os : List (Role × Operand)} {s : State} (h : ∃ e ∈ os, e.1.accepts e.2 = false)
    (k : Unit → Run State) : conclude (checkOperands os s >>= k) = .next (fault .invalidDescriptor s) := by
  simp only [checkOperands_bad h, bind, Except.bind, conclude]

theorem execSave_bad {x : Operand} {s : State} (h : ∃ e ∈ [(Role.regList, x)], e.1.accepts e.2 = false) :
    execSave x s = .next (fault .invalidDescriptor s) := by
  simp only [execSave, checkOperands_bad h, conclude]

theorem execRestore_bad {x : Operand} {s : State} (h : ∃ e ∈ [(Role.regList, x)], e.1.accepts e.2 = false) :
    execRestore x s = .next (fault .invalidDescriptor s) := by
  simp only [execRestore, checkOperands_bad h, conclude]

/-- Settles O16: the check of the operands comes first in every instruction that has some. -/
theorem badOperandsRaiseInvalidDescriptor : Obligations.BadOperandsRaiseInvalidDescriptor := by
  unfold Obligations.BadOperandsRaiseInvalidDescriptor
  intro i s h
  cases i with
  | save => exact execSave_bad h
  | restore => exact execRestore_bad h
  | swapwi | swaphi | swapbi | popw | jmp | tstw | tsth | tstb | jsb | clrw | clrh | clrb | incw | inch | incb | decw
  | dech | decb | pushw | pushaw | movaw | movtrw | call | bitw | bith | bitb | cmpw | cmph | cmpb | movw | movh
  | movb | mcomw | mcomh | mcomb | mnegw | mnegh | mnegb | addw2 | addh2 | addb2 | modw2 | modh2 | modb2 | mulw2
  | mulh2 | mulb2 | divw2 | divh2 | divb2 | orw2 | orh2 | orb2 | xorw2 | xorh2 | xorb2 | andw2 | andh2 | andb2
  | subw2 | subh2 | subb2 | alsw3 | arsw3 | arsh3 | arsb3 | llsw3 | llsh3 | llsb3 | lrsw3 | rotw | addw3 | addh3
  | addb3 | modw3 | modh3 | modb3 | mulw3 | mulh3 | mulb3 | divw3 | divh3 | divb3 | orw3 | orh3 | orb3 | xorw3
  | xorh3 | xorb3 | andw3 | andh3 | andb3 | subw3 | subh3 | subb3 | insfw | insfh | insfb | extfw | extfh | extfb
  | spoprd | spoprt | spopwd | spopwt | spoprs | spopws | spopd2 | spopt2 | spops2 => exact conclude_bad h _
  | _ =>
    obtain ⟨e, he, -⟩ := h
    exact absurd he (List.not_mem_nil)

theorem checkPrivilege_refused {s : State} {r : Reg} (hk : isKernel s = false) (hr : r ∈ [Reg.psw, .pcbp, .isp])
    {dst : Operand} (hd : dst.mode = .register r) : checkPrivilege dst.mode s = .error (.privilegedRegister, s) := by
  have privileged : ∀ r ∈ [Reg.psw, .pcbp, .isp], isPrivileged r = true := by decide
  simp only [checkPrivilege, hd, privileged r hr, hk, Bool.not_false, Bool.and_self, if_true]

/-- Behind the check of the operands comes that of the destination's privilege (30_encoding R152). -/
theorem conclude_privileged {os : List (Role × Operand)} {s : State} (ho : ∀ e ∈ os, e.1.accepts e.2 = true)
    {dst : Operand} (hp : checkPrivilege dst.mode s = .error (.privilegedRegister, s)) (k : Unit → Run State) :
    conclude (checkOperands os s >>= fun _ => checkPrivilege dst.mode s >>= k) = .next (fault .privilegedRegister s) := by
  have : checkOperands os s = .ok () := by simp only [checkOperands, List.all_eq_true.mpr ho, if_true]
  simp only [this, hp, bind, Except.bind, conclude]

/-- A register is accepted as a destination, whatever its type. -/
theorem accepts_register {dst : Operand} {r : Reg} (hd : dst.mode = .register r) : Role.dst.accepts dst = true := by
  obtain ⟨ty, mode⟩ := dst
  cases hd
  rfl

/-- Settles O17. -/
theorem privilegedRegistersTrap : Obligations.PrivilegedRegistersTrap := by
  unfold Obligations.PrivilegedRegistersTrap
  intro s r dst hk hr hd
  have hp := checkPrivilege_refused hk hr hd
  have ok : Role.dst.accepts dst = true := accepts_register hd
  refine ⟨?unary, ?popw, ?binary, ?address, ?triple, ?field⟩
  case unary =>
    have hos : ∀ e ∈ [(Role.dst, dst)], e.1.accepts e.2 = true := by simpa using ok
    intro f hf
    fin_cases hf <;> exact conclude_privileged hos hp _
  case popw =>
    intro ht
    have plain : Role.dstPlain.accepts dst = true := by
      obtain ⟨ty, mode⟩ := dst
      cases hd
      cases ht
      rfl
    exact conclude_privileged (os := [(.dstPlain, dst)]) (by simpa using plain) hp _
  case binary =>
    intro f hf src hs
    have hos : ∀ e ∈ [(Role.src, src), (Role.dst, dst)], e.1.accepts e.2 = true := by
      simpa using ⟨accepts_of_wellFormed hs, ok⟩
    fin_cases hf <;> exact conclude_privileged hos hp _
  case address =>
    intro f hf src hs
    have hos : ∀ e ∈ [(Role.addr, src), (Role.dst, dst)], e.1.accepts e.2 = true := by
      simpa using ⟨accepts_of_wellFormed hs, ok⟩
    fin_cases hf <;> exact conclude_privileged hos hp _
  case triple =>
    intro f hf a b ha hb
    have hos : ∀ e ∈ [(Role.src, a), (Role.src, b), (Role.dst, dst)], e.1.accepts e.2 = true := by
      simpa using ⟨accepts_of_wellFormed ha, accepts_of_wellFormed hb, ok⟩
    fin_cases hf <;> exact conclude_privileged hos hp _
  case field =>
    intro f hf a b c ha hb hc
    have hos : ∀ e ∈ [(Role.src, a), (Role.src, b), (Role.src, c), (Role.dst, dst)], e.1.accepts e.2 = true := by
      simpa using ⟨accepts_of_wellFormed ha, accepts_of_wellFormed hb, accepts_of_wellFormed hc, ok⟩
    fin_cases hf <;> exact conclude_privileged hos hp _

/-- A privileged instruction begins with the check of the level (46_operating_system R470). -/
theorem conclude_requireKernel {s : State} (hk : isKernel s = false) (k : Unit → Run State) :
    conclude (requireKernel s >>= k) = .next (fault .privilegedOpcode s) := by
  simp only [requireKernel, hk, Bool.false_eq_true, if_false, bind, Except.bind, conclude]

/-- Settles O18. -/
theorem privilegedOpcodesTrap : Obligations.PrivilegedOpcodesTrap := by
  unfold Obligations.PrivilegedOpcodesTrap
  intro s hk i hi
  fin_cases hi <;> exact conclude_requireKernel hk _

/-- Settles O48. -/
theorem indeterminateSaveRestore : Obligations.IndeterminateSaveRestore := by
  unfold Obligations.IndeterminateSaveRestore
  intro o s ha hr
  have accepted : checkOperands [(.regList, o)] s = .ok () := by
    simp only [checkOperands, List.all_cons, ha, List.all_nil, Bool.and_self, if_true]
  have none : savedRegs o.mode = none := by
    cases hm : o.mode with
    | register r => simp only [savedRegs, hr r hm, Bool.false_eq_true, if_false]
    | _ => rfl
  have save : execSave o s = .fault .indeterminateSave := by simp only [execSave, accepted, none]
  have restore : execRestore o s = .fault .indeterminateRestore := by simp only [execRestore, accepted, none]
  exact ⟨save, restore⟩

end Sys2Proof.Machine
end

section
/-! The obligations on the instructions that are one operation on their operands: moves, arithmetic, logic, shifts, bit
fields, compares (spec/40_data_transfer.md, 41_arithmetic.md, 42_logical.md). Each is its shape with its result; a list of
forms is checked once against the shape, and the shape's law does the rest. -/

namespace Sys2Proof.Machine

/-! ## Forms and their shapes -/

/-- OP src,dst that only writes dst: its length, and what it runs. -/
def RunsCopy (c : Operand → Operand → Instr) (cur : OType) (f : OType → Value → Result) : Prop :=
  ∀ src dst, (encode (c src dst)).length = 1 + src.length + dst.length ∧ ∀ s, exec (c src dst) s = moveShape cur src dst f s

/-- OP src,dst that reads and writes dst. -/
def RunsTwo (c : Operand → Operand → Instr) (cur : OType) (f : OType → Value → Value → Result) : Prop :=
  ∀ src dst, (encode (c src dst)).length = 1 + src.length + dst.length ∧
    ∀ s, exec (c src dst) s = twoAddress cur src dst f s

/-- OP src1,src2,dst; the result may depend on the open parameters. -/
def RunsThree (c : Operand → Operand → Operand → Instr) (cur : OType)
    (f : Nat → OType → OType → Value → Value → Result) : Prop :=
  ∀ src1 src2 dst, (encode (c src1 src2 dst)).length = 1 + src1.length + src2.length + dst.length ∧
    ∀ s, exec (c src1 src2 dst) s = threeAddress cur src1 src2 dst (f s.free) s

/-- OP dst that reads and writes dst. -/
def RunsModify (c : Operand → Instr) (cur : OType) (f : OType → Value → Result) : Prop :=
  ∀ dst, (encode (c dst)).length = 1 + dst.length ∧ ∀ s, exec (c dst) s = readModify cur dst f s

/-- OP src1,src2 that only sets flags. -/
def RunsCompare (c : Operand → Operand → Instr) (cur : OType) (f : OType → Value → Value → BitVec 4) : Prop :=
  ∀ src1 src2, (encode (c src1 src2)).length = 1 + src1.length + src2.length ∧
    ∀ s, exec (c src1 src2) s = compareShape cur src1 src2 f s

/-- OP width,offset,src,dst. -/
def RunsField (c : Operand → Operand → Operand → Operand → Instr)
    (shape : Operand → Operand → Operand → Operand → State → Outcome) : Prop :=
  ∀ width offset src dst, (encode (c width offset src dst)).length = 1 + width.length + offset.length + src.length + dst.length ∧
    ∀ s, exec (c width offset src dst) s = shape width offset src dst s

section
variable {s : State} {p : Place} {src src1 src2 dst : Operand} {cur ts t1 t2 t : OType}

theorem RunsCopy.next {c : Operand → Operand → Instr} {f : OType → Value → Result} {v : Value} (run : RunsCopy c cur f)
    (hi : s.Inv) (hs : SourceIs cur src s ts v) (hd : DestIs ts dst s t p) (hz : (f t v).zeroDivide = false) :
    ∃ w, exec (c src dst) s = .next (complete ((f t v).overflow && tellsOverflow [src] p && pswOe s.regs.psw) w) ∧
      Wrote t p (f t v).value (keepsFlags [src] p) (f t v).flags (encode (c src dst)).length s w := by
  obtain ⟨len, run⟩ := run src dst
  rw [run, len, keepsFlags_1]
  exact moveShape_next hi hs hd hz

theorem RunsTwo.next {c : Operand → Operand → Instr} {f : OType → Value → Value → Result} {v d : Value}
    (run : RunsTwo c cur f) (hi : s.Inv) (hs : SourceIs cur src s ts v) (hd : DestIs ts dst s t p)
    (hr : readPlace t p s = .ok (d, s)) (hz : (f t d v).zeroDivide = false) :
    ∃ w, exec (c src dst) s = .next (complete ((f t d v).overflow && tellsOverflow [src] p && pswOe s.regs.psw) w) ∧
      Wrote t p (f t d v).value (keepsFlags [src] p) (f t d v).flags (encode (c src dst)).length s w := by
  obtain ⟨len, run⟩ := run src dst
  rw [run, len, keepsFlags_1]
  exact twoAddress_next hi hs hd hr hz

theorem RunsThree.next {c : Operand → Operand → Operand → Instr} {f : Nat → OType → OType → Value → Value → Result}
    {a b : Value} (run : RunsThree c cur f) (hi : s.Inv) (hs1 : SourceIs cur src1 s t1 a) (hs2 : SourceIs t1 src2 s t2 b)
    (hd : DestIs t2 dst s t p) (hz : (f s.free t2 t b a).zeroDivide = false) :
    ∃ w, exec (c src1 src2 dst) s =
        .next (complete ((f s.free t2 t b a).overflow && tellsOverflow [src1, src2] p && pswOe s.regs.psw) w) ∧
      Wrote t p (f s.free t2 t b a).value (keepsFlags [src1, src2] p) (f s.free t2 t b a).flags
        (encode (c src1 src2 dst)).length s w := by
  obtain ⟨len, run⟩ := run src1 src2 dst
  rw [run, len, keepsFlags_2]
  exact threeAddress_next hi hs1 hs2 hd hz

theorem RunsModify.next {c : Operand → Instr} {f : OType → Value → Result} {d : Value} (run : RunsModify c cur f)
    (hi : s.Inv) (hd : DestIs cur dst s t p) (hr : readPlace t p s = .ok (d, s)) (hz : (f t d).zeroDivide = false) :
    ∃ w, exec (c dst) s = .next (complete ((f t d).overflow && pswOe s.regs.psw) w) ∧
      Wrote t p (f t d).value (keepsFlags [] p) (f t d).flags (encode (c dst)).length s w := by
  obtain ⟨len, run⟩ := run dst
  rw [run, len, keepsFlags_0]
  exact readModify_next hi hd hr hz

theorem RunsCompare.next {c : Operand → Operand → Instr} {f : OType → Value → Value → BitVec 4} {a b : Value}
    (run : RunsCompare c cur f) (hi : s.Inv) (hs1 : SourceIs cur src1 s t1 a) (hs2 : SourceIs t1 src2 s t2 b) :
    ∃ w, exec (c src1 src2) s = .next (complete false w) ∧
      SetsFlags (readsPsw src1 || readsPsw src2) (f t2 a b) (encode (c src1 src2)).length s w := by
  obtain ⟨len, run⟩ := run src1 src2
  rw [run, len]
  exact compareShape_next hi hs1 hs2

end

/-! ## Moves -/

theorem runs_moves : ∀ e ∈ [(Instr.movb, OType.ubyte, false), (.movh, .shalf, false), (.movw, .sword, false),
    (.mcomb, .ubyte, true), (.mcomh, .shalf, true), (.mcomw, .sword, true)],
    RunsCopy e.1 e.2.1 fun t v => caseOne t (if e.2.2 then ~~~v.bits else v.bits) := by
  intro e he
  fin_cases he <;> exact fun _ _ => ⟨length_cons_two _ _ _, fun _ => rfl⟩

/-- Settles O27. -/
theorem Settled.moveResult : Obligations.MoveResult := by
  unfold Obligations.MoveResult
  intro e he src dst s ts t v p hi hs hd
  exact (runs_moves e he).next hi hs hd rfl

theorem runs_negations : ∀ e ∈ [(Instr.mnegb, OType.ubyte), (.mnegh, .shalf), (.mnegw, .sword)],
    RunsCopy e.1 e.2 negResult := by
  intro e he
  fin_cases he <;> exact fun _ _ => ⟨length_cons_two _ _ _, fun _ => rfl⟩

/-- The borrow of 0 - x. -/
theorem borrow_zero (t : OType) (x : Word) : borrow t 0 x = decide (0 < x.toNat % 2 ^ typeBits t) := by simp [borrow]

/-- Settles O28. -/
theorem negateResult : Obligations.NegateResult := by
  unfold Obligations.NegateResult
  intro e he src dst s ts t v p hi hs hd
  have next := (runs_negations e he).next hi hs hd rfl
  simp only [negResult, borrow_zero] at next
  exact next

/-! ## Bit fields -/

theorem runs_extracts : ∀ e ∈ [(Instr.extfb, OType.ubyte), (.extfh, .shalf), (.extfw, .sword)],
    RunsField e.1 (extractShape e.2) := by
  intro e he
  fin_cases he <;> exact fun _ _ _ _ => ⟨length_cons_four _ _ _ _ _, fun _ => rfl⟩

theorem runs_inserts : ∀ e ∈ [(Instr.insfb, OType.ubyte), (.insfh, .shalf), (.insfw, .sword)],
    RunsField e.1 (insertShape e.2) := by
  intro e he
  fin_cases he <;> exact fun _ _ _ _ => ⟨length_cons_four _ _ _ _ _, fun _ => rfl⟩

/-- Settles O32. -/
theorem bitFieldResult : Obligations.BitFieldResult := by
  unfold Obligations.BitFieldResult
  refine ⟨fun e he width offset src dst s t1 t2 t3 t wv ov v p hi h1 h2 h3 hd => ?extract,
    fun e he width offset src dst s t1 t2 t3 t wv ov v d p hi h1 h2 h3 hd hr => ?insert⟩
  case extract =>
    obtain ⟨len, run⟩ := runs_extracts e he width offset src dst
    have next := extractShape_next hi h1 h2 h3 hd
    simp only [extractResult, lowFive_eq] at next
    rw [run, len, keepsFlags_3]
    exact next
  case insert =>
    obtain ⟨len, run⟩ := runs_inserts e he width offset src dst
    have next := insertShape_next hi h1 h2 h3 hd hr
    simp only [insertResult, lowFive_eq, ← Bool.decide_and] at next
    rw [run, len, keepsFlags_3]
    exact next

/-! ## Arithmetic -/

/-- Addition or subtraction. -/
def sumResult (subtract : Bool) (t : OType) (d v : Value) : Result :=
  if subtract then subResult t d v else addResult t d v

theorem runs_sums : ∀ e ∈ [(Instr.addb2, OType.ubyte, false), (.addh2, .shalf, false), (.addw2, .sword, false),
    (.subb2, .ubyte, true), (.subh2, .shalf, true), (.subw2, .sword, true)], RunsTwo e.1 e.2.1 (sumResult e.2.2) := by
  intro e he
  fin_cases he <;> exact fun _ _ => ⟨length_cons_two _ _ _, fun _ => rfl⟩

theorem runs_sums3 : ∀ e ∈ [(Instr.addb3, OType.ubyte, false), (.addh3, .shalf, false), (.addw3, .sword, false),
    (.subb3, .ubyte, true), (.subh3, .shalf, true), (.subw3, .sword, true)],
    RunsThree e.1 e.2.1 fun _ _ => sumResult e.2.2 := by
  intro e he
  fin_cases he <;> exact fun _ _ _ => ⟨length_cons_three _ _ _ _, fun _ => rfl⟩

/-- The sum or difference as the obligation states it. -/
theorem sumResult_eq (subtract : Bool) (t : OType) (d v : Value) :
    let i := if subtract then d.int - v.int else d.int + v.int
    let x := d.bits.toNat % 2 ^ typeBits t
    let y := v.bits.toNat % 2 ^ typeBits t
    let c := if subtract then decide (x < y) else decide (2 ^ typeBits t ≤ x + y)
    sumResult subtract t d v = arithmetic i (!fits t i) c (!fits t i) := by
  cases subtract <;> rfl

/-- Settles O33. -/
theorem addSubtractResult : Obligations.AddSubtractResult := by
  unfold Obligations.AddSubtractResult
  refine ⟨fun e he src dst s ts t v d p hi hs hd hr => ?two, fun e he src1 src2 dst s t1 t2 t a b p hi hs1 hs2 hd => ?three⟩
  case two =>
    have next := (runs_sums e he).next hi hs hd hr (by rw [sumResult_eq]; rfl)
    rw [sumResult_eq] at next
    exact next
  case three =>
    have next := (runs_sums3 e he).next hi hs1 hs2 hd (by rw [sumResult_eq]; rfl)
    rw [sumResult_eq] at next
    exact next

theorem runs_steps : ∀ e ∈ [(Instr.incb, OType.ubyte, false), (.inch, .shalf, false), (.incw, .sword, false),
    (.decb, .ubyte, true), (.dech, .shalf, true), (.decw, .sword, true)],
    RunsModify e.1 e.2.1 fun t d => sumResult e.2.2 t d oneValue := by
  intro e he
  fin_cases he <;> exact fun _ => ⟨length_cons_one _ _, fun _ => rfl⟩

/-- The carry and the borrow of a step by 1. -/
theorem step_carry (subtract : Bool) (t : OType) (x : Nat) :
    (if subtract then decide (x % 2 ^ typeBits t < oneValue.bits.toNat % 2 ^ typeBits t)
      else decide (2 ^ typeBits t ≤ x % 2 ^ typeBits t + oneValue.bits.toNat % 2 ^ typeBits t)) =
    if subtract then decide (x % 2 ^ typeBits t = 0) else decide (x % 2 ^ typeBits t + 1 = 2 ^ typeBits t) := by
  have one : oneValue.bits.toNat % 2 ^ typeBits t = 1 := by cases t <;> rfl
  have bound : x % 2 ^ typeBits t < 2 ^ typeBits t := Nat.mod_lt _ (Nat.two_pow_pos _)
  rw [one]
  cases subtract
  · exact decide_eq_decide.mpr (by omega)
  · exact decide_eq_decide.mpr Nat.lt_one_iff

/-- Settles O34. -/
theorem incrementDecrement : Obligations.IncrementDecrement := by
  unfold Obligations.IncrementDecrement
  intro e he dst s t d p hi hd hr
  have next := (runs_steps e he).next hi hd hr (by rw [sumResult_eq]; rfl)
  rw [sumResult_eq, step_carry] at next
  exact next

/-- A product, quotient or remainder; by zero, if it divides, there is none (41_arithmetic R247). -/
def quotientResult (op : Int → Int → Int) (divides : Bool) (result : OType → Int → Result) (t : OType) (d v : Value) :
    Result :=
  if divides = true ∧ v.int = 0 then zeroDivision else result t (op d.int v.int)

theorem quotientResult_of_nonzero {op : Int → Int → Int} {divides : Bool} {result : OType → Int → Result} {t : OType}
    {d v : Value} (h : divides = true → v.int ≠ 0) :
    quotientResult op divides result t d v = result t (op d.int v.int) :=
  if_neg fun ⟨hd, hv⟩ => h hd hv

theorem quotientResult_of_zero {op : Int → Int → Int} {result : OType → Int → Result} {t : OType}
    {d v : Value} (h : v.int = 0) : quotientResult op true result t d v = zeroDivision := if_pos ⟨rfl, h⟩

theorem runs_products : ∀ e ∈ [(Instr.mulb2, OType.ubyte, fun a b : Int => a * b, false),
    (.mulh2, .shalf, fun a b => a * b, false), (.mulw2, .sword, fun a b => a * b, false),
    (.divb2, .ubyte, Int.tdiv, true), (.divh2, .shalf, Int.tdiv, true), (.divw2, .sword, Int.tdiv, true),
    (.modb2, .ubyte, Int.tmod, true), (.modh2, .shalf, Int.tmod, true), (.modw2, .sword, Int.tmod, true)],
    RunsTwo e.1 e.2.1 (quotientResult e.2.2.1 e.2.2.2 caseThree) := by
  have mul : mulResult = quotientResult (fun a b => a * b) false caseThree := by
    funext t d v
    exact (quotientResult_of_nonzero (divides := false) Bool.noConfusion).symm
  have div : divResult = quotientResult Int.tdiv true caseThree := by
    funext t d v
    simp only [divResult, quotientResult, true_and]
  have mod : modResult = quotientResult Int.tmod true caseThree := by
    funext t d v
    simp only [modResult, quotientResult, true_and]
  intro e he
  fin_cases he
  all_goals
    intro src dst
    refine ⟨length_cons_two _ _ _, fun s => ?_⟩
    simp only [← mul, ← div, ← mod]
    rfl

theorem runs_products3 : ∀ e ∈ [(Instr.mulb3, OType.ubyte, fun a b : Int => a * b, false),
    (.mulh3, .shalf, fun a b => a * b, false), (.mulw3, .sword, fun a b => a * b, false),
    (.divb3, .ubyte, Int.tdiv, true), (.divh3, .shalf, Int.tdiv, true), (.divw3, .sword, Int.tdiv, true),
    (.modb3, .ubyte, Int.tmod, true), (.modh3, .shalf, Int.tmod, true), (.modw3, .sword, Int.tmod, true)],
    RunsThree e.1 e.2.1 fun free _ => quotientResult e.2.2.1 e.2.2.2 (caseFour free) := by
  have mul : ∀ n, mulResult3 n = quotientResult (fun a b => a * b) false (caseFour n) := by
    intro n
    funext t d v
    exact (quotientResult_of_nonzero (divides := false) Bool.noConfusion).symm
  have div : ∀ n, divResult3 n = quotientResult Int.tdiv true (caseFour n) := by
    intro n
    funext t d v
    simp only [divResult3, quotientResult, true_and]
  have mod : ∀ n, modResult3 n = quotientResult Int.tmod true (caseFour n) := by
    intro n
    funext t d v
    simp only [modResult3, quotientResult, true_and]
  intro e he
  fin_cases he
  all_goals
    intro src1 src2 dst
    refine ⟨length_cons_three _ _ _ _, fun s => ?_⟩
    simp only [← mul, ← div, ← mod]
    rfl

/-- Settles O35. -/
theorem multiplyDivideTwoAddress : Obligations.MultiplyDivideTwoAddress := by
  unfold Obligations.MultiplyDivideTwoAddress
  intro e he src dst s ts t v d p hi hs hd hr hv
  have next := (runs_products e he).next hi hs hd hr (by rw [quotientResult_of_nonzero hv]; rfl)
  rw [quotientResult_of_nonzero hv] at next
  exact next

/-- What the rules fix of V in case 4 (41_arithmetic R271). -/
theorem caseFourV_fixed (free : Nat) (t : OType) (i : Int) : (fits t i = true → caseFourV free t i = false) ∧
    (fits t i = false → ¬(t = .sword ∧ i.natAbs < 2 ^ 32) → caseFourV free t i = true) :=
  ⟨fun h => if_pos h, fun h open_ => by rw [caseFourV, h, if_neg Bool.false_ne_true, if_neg open_]⟩

/-- Settles O36. -/
theorem multiplyDivideThreeAddress : Obligations.MultiplyDivideThreeAddress := by
  unfold Obligations.MultiplyDivideThreeAddress
  intro e he src1 src2 dst s t1 t2 t a b p hi hs1 hs2 hd ha
  have next := (runs_products3 e he).next hi hs1 hs2 hd (by rw [quotientResult_of_nonzero ha]; rfl)
  rw [quotientResult_of_nonzero ha] at next
  obtain ⟨w, runs, wrote⟩ := next
  obtain ⟨fit, unfit⟩ := caseFourV_fixed s.free t (e.2.2.1 b.int a.int)
  exact ⟨_, w, fit, unfit, runs, wrote⟩

/-- A division by zero ends before anything is written (41_arithmetic R247). -/
theorem finish_zeroDivision (t : OType) (p : Place) (pswSource : Bool) (len : Nat) (s : State) :
    finish t p pswSource len zeroDivision s = .error (.integerZeroDivide, s) := rfl

theorem twoAddress_zeroDivide {cur ts t : OType} {src dst : Operand} {s : State} {v d : Value} {p : Place}
    {f : OType → Value → Value → Result} (hs : SourceIs cur src s ts v) (hd : DestIs ts dst s t p)
    (hr : readPlace t p s = .ok (d, s)) (hz : f t d v = zeroDivision) :
    twoAddress cur src dst f s = .next (fault .integerZeroDivide s) := by
  obtain ⟨ws, rfl, read⟩ := hs
  obtain ⟨wd, permitted, rfl, resolved, -⟩ := hd
  have operands := checkOperands_ok (os := [(.src, src), (.dst, dst)]) (s := s) (by simp [ws, wd])
  simp only [twoAddress, operands, checkPrivilege_ok permitted, bind, Except.bind, read, resolved, hr, hz,
    finish_zeroDivision, conclude]

theorem threeAddress_zeroDivide {cur t1 t2 t : OType} {src1 src2 dst : Operand} {s : State} {a b : Value} {p : Place}
    {f : OType → OType → Value → Value → Result} (hs1 : SourceIs cur src1 s t1 a) (hs2 : SourceIs t1 src2 s t2 b)
    (hd : DestIs t2 dst s t p) (hz : f t2 t b a = zeroDivision) :
    threeAddress cur src1 src2 dst f s = .next (fault .integerZeroDivide s) := by
  obtain ⟨w1, rfl, read1⟩ := hs1
  obtain ⟨w2, rfl, read2⟩ := hs2
  obtain ⟨wd, permitted, rfl, resolved, -⟩ := hd
  have operands := checkOperands_ok (os := [(.src, src1), (.src, src2), (.dst, dst)]) (s := s) (by simp [w1, w2, wd])
  simp only [threeAddress, operands, checkPrivilege_ok permitted, bind, Except.bind, read1, read2, resolved, hz,
    finish_zeroDivision, conclude]

/-- The dividing forms, among the products. -/
theorem runs_divisions : ∀ e ∈ [(Instr.divb2, OType.ubyte), (.divh2, .shalf), (.divw2, .sword), (.modb2, .ubyte),
    (.modh2, .shalf), (.modw2, .sword)], ∃ op, RunsTwo e.1 e.2 (quotientResult op true caseThree) := by
  intro e he
  fin_cases he
  · exact ⟨_, runs_products (.divb2, .ubyte, Int.tdiv, true) (by simp)⟩
  · exact ⟨_, runs_products (.divh2, .shalf, Int.tdiv, true) (by simp)⟩
  · exact ⟨_, runs_products (.divw2, .sword, Int.tdiv, true) (by simp)⟩
  · exact ⟨_, runs_products (.modb2, .ubyte, Int.tmod, true) (by simp)⟩
  · exact ⟨_, runs_products (.modh2, .shalf, Int.tmod, true) (by simp)⟩
  · exact ⟨_, runs_products (.modw2, .sword, Int.tmod, true) (by simp)⟩

theorem runs_divisions3 : ∀ e ∈ [(Instr.divb3, OType.ubyte), (.divh3, .shalf), (.divw3, .sword), (.modb3, .ubyte),
    (.modh3, .shalf), (.modw3, .sword)],
    ∃ op, RunsThree e.1 e.2 fun free _ => quotientResult op true (caseFour free) := by
  intro e he
  fin_cases he
  · exact ⟨_, runs_products3 (.divb3, .ubyte, Int.tdiv, true) (by simp)⟩
  · exact ⟨_, runs_products3 (.divh3, .shalf, Int.tdiv, true) (by simp)⟩
  · exact ⟨_, runs_products3 (.divw3, .sword, Int.tdiv, true) (by simp)⟩
  · exact ⟨_, runs_products3 (.modb3, .ubyte, Int.tmod, true) (by simp)⟩
  · exact ⟨_, runs_products3 (.modh3, .shalf, Int.tmod, true) (by simp)⟩
  · exact ⟨_, runs_products3 (.modw3, .sword, Int.tmod, true) (by simp)⟩

/-- Settles O37. -/
theorem divisionByZeroTraps : Obligations.DivisionByZeroTraps := by
  unfold Obligations.DivisionByZeroTraps
  refine ⟨fun e he src dst s ts t v d p hs hd hr hv => ?two, fun e he src1 src2 dst s t1 t2 t a b p hs1 hs2 hd ha => ?three⟩
  case two =>
    obtain ⟨op, run⟩ := runs_divisions e he
    rw [(run src dst).2]
    exact twoAddress_zeroDivide hs hd hr (quotientResult_of_zero hv)
  case three =>
    obtain ⟨op, run⟩ := runs_divisions3 e he
    rw [(run src1 src2 dst).2]
    exact threeAddress_zeroDivide hs1 hs2 hd (quotientResult_of_zero ha)

/-! ## Logic and shifts -/

theorem runs_shifts : ∀ e ∈ [(Instr.alsw3, OType.sword, fun (x : Word) (n : Nat) => x <<< n),
    (.llsb3, .ubyte, fun x n => x <<< n), (.llsh3, .shalf, fun x n => x <<< n), (.llsw3, .sword, fun x n => x <<< n),
    (.lrsw3, .sword, fun x n => x >>> n), (.rotw, .sword, fun x n => x.rotateRight n)],
    RunsThree e.1 e.2.1 fun _ _ t v count => caseOne t (e.2.2 v.bits (lowFive count)) := by
  intro e he
  fin_cases he <;> exact fun _ _ _ => ⟨length_cons_three _ _ _ _, fun _ => rfl⟩

theorem runs_arithmeticShifts : ∀ e ∈ [(Instr.arsb3, OType.ubyte), (.arsh3, .shalf), (.arsw3, .sword)],
    RunsThree e.1 e.2 fun _ => arithmeticShiftResult := by
  intro e he
  fin_cases he <;> exact fun _ _ _ => ⟨length_cons_three _ _ _ _, fun _ => rfl⟩

theorem signTruncated_eq (t : OType) (x : Word) : signTruncated t x = decide (sextLow (typeBits t) x ≠ x) := by
  simp only [signTruncated, bne, Bool.beq_eq_decide_eq, ne_eq, decide_not]

/-- Settles O38. -/
theorem shiftResult : Obligations.ShiftResult := by
  unfold Obligations.ShiftResult
  refine ⟨fun e he count src dst s t1 t2 t c v p hi hs1 hs2 hd => ?logical,
    fun e he count src dst s t1 t2 t c v p hi hs1 hs2 hd => ?arithmetic⟩
  case logical =>
    have next := (runs_shifts e he).next hi hs1 hs2 hd rfl
    simp only [lowFive_eq] at next
    exact next
  case arithmetic =>
    have next := (runs_arithmeticShifts e he).next hi hs1 hs2 hd rfl
    simp only [arithmeticShiftResult, lowFive_eq, signTruncated_eq] at next
    exact next

theorem runs_logic : ∀ e ∈ [(Instr.andb2, OType.ubyte, fun a b : Word => a &&& b), (.andh2, .shalf, fun a b => a &&& b),
    (.andw2, .sword, fun a b => a &&& b), (.orb2, .ubyte, fun a b => a ||| b), (.orh2, .shalf, fun a b => a ||| b),
    (.orw2, .sword, fun a b => a ||| b), (.xorb2, .ubyte, fun a b => a ^^^ b), (.xorh2, .shalf, fun a b => a ^^^ b),
    (.xorw2, .sword, fun a b => a ^^^ b)], RunsTwo e.1 e.2.1 fun t d v => caseOne t (e.2.2 d.bits v.bits) := by
  intro e he
  fin_cases he <;> exact fun _ _ => ⟨length_cons_two _ _ _, fun _ => rfl⟩

theorem runs_logic3 : ∀ e ∈ [(Instr.andb3, OType.ubyte, fun a b : Word => a &&& b), (.andh3, .shalf, fun a b => a &&& b),
    (.andw3, .sword, fun a b => a &&& b), (.orb3, .ubyte, fun a b => a ||| b), (.orh3, .shalf, fun a b => a ||| b),
    (.orw3, .sword, fun a b => a ||| b), (.xorb3, .ubyte, fun a b => a ^^^ b), (.xorh3, .shalf, fun a b => a ^^^ b),
    (.xorw3, .sword, fun a b => a ^^^ b)],
    RunsThree e.1 e.2.1 fun _ _ t d v => caseOne t (e.2.2 d.bits v.bits) := by
  intro e he
  fin_cases he <;> exact fun _ _ _ => ⟨length_cons_three _ _ _ _, fun _ => rfl⟩

/-- Settles O39. -/
theorem logicResult : Obligations.LogicResult := by
  unfold Obligations.LogicResult
  exact ⟨fun e he src dst s ts t v d p hi hs hd hr => (runs_logic e he).next hi hs hd hr rfl,
    fun e he src1 src2 dst s t1 t2 t a b p hi hs1 hs2 hd => (runs_logic3 e he).next hi hs1 hs2 hd rfl⟩

/-! ## Compare, test, clear -/

theorem runs_compares : ∀ e ∈ [(Instr.cmpb, OType.ubyte), (.cmph, .shalf), (.cmpw, .sword)],
    RunsCompare e.1 e.2 fun _ => compareFlags := by
  intro e he
  fin_cases he <;> exact fun _ _ => ⟨length_cons_two _ _ _, fun _ => rfl⟩

theorem runs_bitTests : ∀ e ∈ [(Instr.bitb, OType.ubyte), (.bith, .shalf), (.bitw, .sword)],
    RunsCompare e.1 e.2 bitFlags := by
  intro e he
  fin_cases he <;> exact fun _ _ => ⟨length_cons_two _ _ _, fun _ => rfl⟩

theorem runs_tests : ∀ e ∈ [(Instr.tstb, OType.ubyte), (.tsth, .shalf), (.tstw, .sword)], ∀ src,
    (encode (e.1 src)).length = 1 + src.length ∧ ∀ s, exec (e.1 src) s = testShape e.2 src testFlags s := by
  intro e he
  fin_cases he <;> exact fun _ => ⟨length_cons_one _ _, fun _ => rfl⟩

theorem compareFlags_eq (a b : Value) : compareFlags a b =
    packFlags (decide (b.bits.toInt < a.bits.toInt)) (decide (a.bits = b.bits)) false
      (decide (b.bits.toNat < a.bits.toNat)) := by
  have equal : (b.bits == a.bits) = decide (a.bits = b.bits) := by
    rw [Bool.beq_eq_decide_eq]
    exact decide_eq_decide.mpr eq_comm
  rw [compareFlags, equal]
  rfl

/-- Settles O40. -/
theorem compareAndTest : Obligations.CompareAndTest := by
  unfold Obligations.CompareAndTest
  refine ⟨fun e he src1 src2 s t1 t2 a b hi hs1 hs2 => ?compare, fun e he src1 src2 s t1 t2 a b hi hs1 hs2 => ?bits,
    fun e he src s t v hi hs => ?test⟩
  case compare =>
    have next := (runs_compares e he).next hi hs1 hs2
    rw [compareFlags_eq] at next
    exact next
  case bits => exact (runs_bitTests e he).next hi hs1 hs2
  case test =>
    obtain ⟨len, run⟩ := runs_tests e he src
    rw [run, len]
    exact testShape_next hi hs

theorem runs_clears : ∀ e ∈ [(Instr.clrb, OType.ubyte), (.clrh, .shalf), (.clrw, .sword)], ∀ dst,
    (encode (e.1 dst)).length = 1 + dst.length ∧ ∀ s, exec (e.1 dst) s = writeOnly e.2 dst clearResult s := by
  intro e he
  fin_cases he <;> exact fun _ => ⟨length_cons_one _ _, fun _ => rfl⟩

/-- Where nothing happens on the bus, a load that fails raises its exception in the state it began in. -/
theorem loadAs_refused {st : Status} {size : Size} {e x : Exn} {a : Word} {s t : State} (hb : s.bus = [])
    (h : loadAs st size e a s = .error (x, t)) : x = e ∧ t = s := by
  cases hm : memRead s st size a with
  | some v => rw [loadAs_quiet hb hm] at h; cases h
  | none =>
    rw [loadAs_fails hb hm] at h
    cases h
    exact ⟨rfl, rfl⟩

/-- A memory mode whose address cannot be formed: its pointer cannot be read. -/
theorem effectiveAddress_refused {m : Mode} {s t : State} {x : Exn} (hb : s.bus = []) (hc : m.isConstant = false)
    (hr : m.isRegister = false) (h : effectiveAddress m s = .error (x, t)) : x = .externalMemory ∧ t = s := by
  cases m with
  | literal | negLiteral | immediate => cases hc
  | register => cases hr
  | displacementDeferred | absoluteDeferred => exact loadAs_refused hb h
  | deferred | fpOffset | apOffset | displacement | absolute => cases h

theorem wellFormed_not_constant {o : Operand} (h : o.wellFormed .dst = true) : o.mode.isConstant = false := by
  simp only [Operand.wellFormed, Bool.and_eq_true, Role.allowsMode, Bool.not_eq_true'] at h
  exact h.1.2

/-- A destination that cannot be resolved: its pointer cannot be read. -/
theorem resolve_refused {m : Mode} {s t : State} {x : Exn} (hb : s.bus = []) (hc : m.isConstant = false)
    (h : resolve m s = .error (x, t)) : x = .externalMemory ∧ t = s := by
  cases m with
  | register => cases h
  | _ =>
    simp only [resolve, bind] at h
    cases he : effectiveAddress _ s with
    | ok p => rw [he] at h; cases h
    | error e =>
      rw [he] at h
      cases h
      exact effectiveAddress_refused hb hc rfl he

theorem not_permitted {dst : Operand} {s : State} (h : ¬Permitted dst s) :
    checkPrivilege dst.mode s = .error (.privilegedRegister, s) := by
  simp only [Permitted, not_forall] at h
  obtain ⟨r, mode, privileged, user⟩ := h
  simp only [checkPrivilege, mode, privileged, Bool.not_eq_true _ ▸ user, Bool.not_false, Bool.and_self, if_true]

theorem accepts_of_permitted {dst : Operand} (h : dst.wellFormed .dst = true) :
    ∀ e ∈ [(Role.dst, dst)], e.1.accepts e.2 = true := by simpa using accepts_of_wellFormed h

/-- A destination in memory that cannot be written: the flags are set, nothing is stored (30_encoding R152 step 6). -/
theorem finish_refused {s : State} (hb : s.bus = []) {t : OType} {a : Word} {r : Result} (hz : r.zeroDivide = false)
    (h : writeReach s .write (typeSize t) a r.value = none) (pswSource : Bool) (len : Nat) :
    finish t (.memory a) pswSource len r s = .error (.externalMemory, applyFlags pswSource r.flags s) := by
  have bus : (applyFlags pswSource r.flags s).bus = [] := by cases pswSource <;> exact hb
  have refused := storeAs_fails bus (by rw [writeReach_applyFlags]; exact h) .externalMemory
  have memory : isPsw (.memory a) = false := rfl
  simp only [finish, hz, Bool.false_eq_true, if_false, writePlace, memory, Bool.or_false, bind, Except.bind, refused]

/-- Settles O41. -/
theorem Settled.clearResult : Obligations.ClearResult := by
  unfold Obligations.ClearResult
  intro e he dst s hi
  obtain ⟨len, run⟩ := runs_clears e he dst
  simp only [run, len, keepsFlags_0]
  refine ⟨fun t p hd => writeOnly_next hi hd rfl, fun bad => ?descriptor, fun hw hp => ?privilege,
    fun hw hp hb => ⟨fun x t hr => ?pointer, fun a hr ha => ?write⟩⟩
  case descriptor => exact conclude_bad ⟨(.dst, dst), by simp, bad⟩ _
  case privilege => exact conclude_privileged (accepts_of_permitted hw) (not_permitted hp) _
  case pointer =>
    obtain ⟨rfl, rfl⟩ := resolve_refused hb (wellFormed_not_constant hw) hr
    have operands := checkOperands_ok (os := [(.dst, dst)]) (s := t) (by simpa using hw)
    simp only [writeOnly, operands, checkPrivilege_ok hp, bind, Except.bind, hr, conclude]
  case write =>
    have operands := checkOperands_ok (os := [(.dst, dst)]) (s := s) (by simpa using hw)
    have stop := finish_refused (r := Machine.clearResult) hb rfl ha false (1 + dst.length)
    simp only [writeOnly, operands, checkPrivilege_ok hp, bind, Except.bind, hr, stop, conclude]
    rfl

end Sys2Proof.Machine
end

section
/-! The obligations on control: the end of an instruction, branches, calls and returns, and the instructions without
operands (spec/43_program_control.md, 45_stack_misc.md, 46_operating_system.md, 60_exceptions.md R514, R560). -/

namespace Sys2Proof.Machine

/-! ## The end of an instruction -/

theorem traceDue_closed {s : State} (h : s.traceOpen = false) : traceDue s = (pswTe s.regs.psw && pswTm s.regs.psw) := by
  simp only [traceDue, h, Bool.false_eq_true, if_false]

theorem traceTest_due {s : State} (h : traceDue s = true) : traceTest s = raise .trace { s with traceOpen := false } :=
  if_pos h

theorem traceTest_not_due {s : State} (h : traceDue s = false) : traceTest s = { s with traceOpen := false } := by
  rw [traceTest, h, if_neg Bool.false_ne_true]

theorem complete_pending {s : State} (h : s.pendingOverflow = true) (o : Bool) :
    complete o s = raise .integerOverflow { s with pendingOverflow := false } := if_pos h

theorem complete_untrapped {s : State} (h : s.pendingOverflow = false) : complete false s = traceTest s := by
  simp only [complete, h, Bool.false_eq_true, if_false]

/-- The trace test closed already: what is noted as closed is the state itself. -/
theorem traceClosed_eq {s : State} (h : s.traceOpen = false) : { s with traceOpen := false } = s := by
  obtain ⟨⟩ := s
  cases h
  rfl

/-- Settles O20. -/
theorem completionTakesOneTrap : Obligations.CompletionTakesOneTrap := by
  unfold Obligations.CompletionTakesOneTrap
  intro s
  have due : s.traceOpen = false → (traceDue s = true ↔ pswTe s.regs.psw = true ∧ pswTm s.regs.psw = true) :=
    fun h => by rw [traceDue_closed h, Bool.and_eq_true]
  refine ⟨complete_pending, fun hp ho ht => ?untraced, fun hp ho ht => ?traced, fun hp _ => ?opened, fun hp => ?overflow⟩
  case untraced =>
    rw [complete_untrapped hp, traceTest_not_due (Bool.eq_false_iff.mpr (mt (due ho).mp ht)), traceClosed_eq ho]
  case traced => rw [complete_untrapped hp, traceTest_due ((due ho).mpr ht), traceClosed_eq ho]
  case opened =>
    rw [complete_untrapped hp]
    cases h : traceDue s with
    | true => exact .inr (traceTest_due h)
    | false => exact .inl (traceTest_not_due h)
  case overflow =>
    by_cases late : Config.overflowLate s.free = true
    · have run : complete true s = traceTest { s with pendingOverflow := true } := by
        simp only [complete, hp, Bool.false_eq_true, if_false, if_true, late]
      right
      cases h : traceDue s with
      | true => exact .inr ⟨fun ho => (due ho).mp h, run.trans (traceTest_due (s := { s with pendingOverflow := true }) h)⟩
      | false =>
        exact .inl ⟨fun ho traced => Bool.false_ne_true (h.symm.trans ((due ho).mpr traced)),
          run.trans (traceTest_not_due (s := { s with pendingOverflow := true }) h)⟩
    · left
      simp only [complete, hp, Bool.false_eq_true, if_false, if_true, late]

/-! ## Going on and jumping -/

theorem advances_advance (len : Nat) (s : State) : Advances [] len s (advance len s) := by
  refine ⟨sameMachine_advance _ _, ⟨rfl, rfl, rfl, rfl, rfl⟩, fun r _ hpc _ => ?_, fun _ => rfl, rfl⟩
  rw [reg_advance, if_neg hpc]

/-- One register, neither the PC nor the PSW, written before the machine goes on. -/
theorem advances_advance_setReg {r : Reg} (hpc : r ≠ .pc) (hpsw : r ≠ .psw) (len : Nat) (v : Word) (s : State) :
    Advances [r] len s (advance len (setReg r v s)) := by
  refine ⟨(sameMachine_setReg _ _ _).trans (sameMachine_advance _ _), ⟨?_, rfl, rfl, rfl, rfl⟩, fun r' hr hpc' _ => ?_,
    fun _ => rfl, ?_⟩
  · rw [advance_pc, pc_setReg, if_neg hpc]
  · rw [reg_advance, if_neg hpc', reg_setReg_ne (fun h => hr (List.mem_singleton.mpr h))]
  · rw [SamePsw, advance_psw, psw_setReg, if_neg hpsw]

theorem jumps_jump (target : Word) (s : State) : Jumps [] target s (jump target s) := by
  refine ⟨sameMachine_jump _ _, ⟨rfl, rfl, rfl, rfl, rfl⟩, fun r _ hpc _ => ?_, fun _ => rfl, rfl⟩
  rw [reg_jump, if_neg hpc]

theorem sameMachine_mem (m : Memory) (s : State) : SameMachine s { s with mem := m } :=
  ⟨rfl, rfl, rfl, rfl, rfl, rfl, rfl, rfl, rfl, rfl, rfl, rfl⟩

/-! ## Branches -/

/-- What a branch leaves before its end: at the target if it is taken, else behind it. -/
theorem branch_runs {i : Instr} {s : State} {taken : Bool} {len : Nat} {d : Word}
    (run : exec i s = branch taken len d s) :
    ∃ w, exec i s = .next (complete false w) ∧ (taken = true → Jumps [] (s.regs.pc + d) s w) ∧
      (taken = false → Advances [] len s w) := by
  cases taken with
  | true => exact ⟨_, run, fun _ => jumps_jump _ _, nofun⟩
  | false => exact ⟨_, run, nofun, fun _ => advances_advance _ _⟩

/-- Settles O42. -/
theorem branchResult : Obligations.BranchResult := by
  unfold Obligations.BranchResult
  rintro s n z v c rfl rfl rfl rfl
  refine ⟨fun e he d => branch_runs ?byte, fun e he d => branch_runs ?half⟩
  case byte => fin_cases he <;> exact rfl
  case half => fin_cases he <;> exact rfl

/-! ## Returns -/

/-- A word popped into the PC, with its new stack pointer. -/
theorem jumps_pop (x sp : Word) (s : State) : Jumps [.sp] x s (jump x (setReg .sp sp s)) := by
  refine ⟨(sameMachine_setReg _ _ _).trans (sameMachine_jump _ _), ⟨rfl, rfl, rfl, rfl, rfl⟩, fun r hr hpc _ => ?_,
    fun _ => rfl, rfl⟩
  rw [reg_jump, if_neg hpc, reg_setReg_ne (fun h => hr (List.mem_singleton.mpr h))]

theorem returnIf_pops {s : State} {x : Word} (hb : s.bus = [])
    (hx : memRead s .operandFetch .word (s.regs.sp - 4) = some x) :
    returnIf true s = .next (complete false (jump x (setReg .sp (s.regs.sp - 4) s))) := by
  have read : load .externalMemory (s.regs.sp - 4) s = .ok (x, s) := loadAs_quiet hb hx _
  simp only [returnIf, if_true, read, bind, Except.bind, conclude]

theorem returnIf_refused {s : State} (hb : s.bus = []) (hx : memRead s .operandFetch .word (s.regs.sp - 4) = none) :
    returnIf true s = .next (fault .externalMemory s) := by
  have read : load .externalMemory (s.regs.sp - 4) s = .error (.externalMemory, s) := loadAs_fails hb hx _
  simp only [returnIf, if_true, read, bind, Except.bind, conclude]

/-- Settles O43. -/
theorem returnResult : Obligations.ReturnResult := by
  unfold Obligations.ReturnResult
  rintro s n z v c rfl rfl rfl rfl e he
  have run : exec e.1 s = returnIf e.2 s := by fin_cases he <;> exact rfl
  rw [run]
  refine ⟨fun x taken hb hx => ?pop, fun taken hb hx => ?refused, fun taken => ?on⟩ <;> rw [taken]
  case pop => exact ⟨_, returnIf_pops hb hx, jumps_pop _ _ _, rfl⟩
  case refused => exact returnIf_refused hb hx
  case on => exact ⟨_, rfl, advances_advance _ _⟩

/-! ## Subroutine calls -/

/-- A return address pushed, and control at a target (43_program_control R380). -/
theorem callTo_pushes {s : State} {q : Reached} {len : Nat} (hi : s.Inv) (hb : s.bus = [])
    (hq : writeReach s .write .word s.regs.sp (s.regs.pc + BitVec.ofNat 32 len) = some q) (target : Word) :
    ∃ w, callTo len target s = .ok (complete false w) ∧ SameMachine s w ∧ GoesTo target s w ∧ SamePsw s w ∧
      RegsBut [.sp] s w ∧ w.regs.sp = s.regs.sp + 4 ∧ StoredAt .word q (s.regs.pc + BitVec.ofNat 32 len) s w := by
  have write : store .externalMemory s.regs.sp (s.regs.pc + BitVec.ofNat 32 len) s = .ok _ := storeAs_quiet hb hq _
  refine ⟨jump target (setReg .sp (s.regs.sp + 4)
    { s with mem := deposited s.mem .word q (s.regs.pc + BitVec.ofNat 32 len) }), ?_,
    (sameMachine_mem _ s).trans ((sameMachine_setReg _ _ _).trans (sameMachine_jump _ _)), ⟨rfl, rfl, rfl, rfl, rfl⟩, rfl,
    fun r hr hpc _ => ?_, rfl, storedAt_deposited hi.1 rfl⟩
  · simp only [callTo, push, write, bind, Except.bind]
  · rw [reg_jump, if_neg hpc, reg_setReg_ne (fun h => hr (List.mem_singleton.mpr h))]
    rfl

theorem conclude_ok {r : Run State} {s : State} (h : r = .ok s) : conclude r = .next s := by rw [h, conclude]

theorem length_jsb (dst : Operand) : (encode (.jsb dst)).length = 1 + dst.length := length_cons_one _ _

theorem exec_jsb {dst : Operand} {s : State} {a : Word} (h : AddressIs .addrPlain dst s a) :
    exec (.jsb dst) s = conclude (callTo (1 + dst.length) a s) := by
  obtain ⟨wf, address⟩ := h
  have operands := checkOperands_ok (os := [(.addrPlain, dst)]) (s := s) (by simpa using wf)
  show execJsb dst s = _
  simp only [execJsb, operands, address, bind, Except.bind]

theorem exec_jmp {dst : Operand} {s : State} {a : Word} (h : AddressIs .addr dst s a) :
    exec (.jmp dst) s = .next (complete false (jump a s)) := by
  obtain ⟨wf, address⟩ := h
  have operands := checkOperands_ok (os := [(.addr, dst)]) (s := s) (by simpa using wf)
  show execJmp dst s = _
  simp only [execJmp, operands, address, bind, Except.bind, conclude]

/-- Settles O44. -/
theorem jumpsAndSubroutineCalls : Obligations.JumpsAndSubroutineCalls := by
  unfold Obligations.JumpsAndSubroutineCalls
  refine ⟨fun dst s a ha => ⟨_, exec_jmp ha, jumps_jump _ _⟩, fun s q hi hb => ⟨fun d hq => ?byte, fun d hq => ?half,
    fun dst a ha hq => ?jsb⟩⟩
  case byte =>
    obtain ⟨w, run, pushes⟩ := callTo_pushes hi hb hq (s.regs.pc + BitVec.ofInt 32 d.toInt)
    exact ⟨w, conclude_ok run, pushes⟩
  case half =>
    obtain ⟨w, run, pushes⟩ := callTo_pushes hi hb hq (s.regs.pc + BitVec.ofInt 32 d.toInt)
    exact ⟨w, conclude_ok run, pushes⟩
  case jsb =>
    rw [length_jsb] at hq ⊢
    obtain ⟨w, run, pushes⟩ := callTo_pushes hi hb hq a
    exact ⟨w, (exec_jsb ha).trans (conclude_ok run), pushes⟩

/-! ## CALL and RET -/

/-- Two words at a stack pointer, the upper one stored first. -/
theorem wordsAt_pair {s w : State} {a : Word} (hm : s.mem.wf = true) (ha : Aligned a) (x y : Word)
    (hw : w.mem = writeData (writeData s.mem .word (a + 4) y) .word a x) : WordsAt a [x, y] s w := by
  have ha4 : Aligned (a + 4) := ha.add (k := 4) rfl
  have hm' := wf_writeData hm .word (a + 4) y
  have apart : a + 4 ≠ a := by simp
  constructor
  · intro k hk
    simp only [wordAt, hw]
    match k, hk with
    | 0, _ =>
      rw [show a + BitVec.ofNat 32 (4 * 0) = a by simp]
      exact readData_writeData hm' .word a x
    | 1, _ =>
      rw [show a + BitVec.ofNat 32 (4 * 1) = a + 4 from rfl, readData_writeData_ne hm' ha ha4 apart.symm,
        readData_writeData hm .word (a + 4) y]
      rfl
  · intro z hz
    have := a.isLt
    have := z.isLt
    simp only [List.length_cons, List.length_nil, BitVec.toNat_sub] at hz
    rw [hw, peek_writeData_other hm', peek_writeData_other hm]
    · simp only [covers, Size.bytes, BitVec.toNat_sub, BitVec.toNat_add, four]
      omega
    · simp only [covers, Size.bytes, BitVec.toNat_sub]
      omega

theorem length_call (src dst : Operand) : (encode (.call src dst)).length = 1 + src.length + dst.length :=
  length_cons_two _ _ _

theorem exec_call {src dst : Operand} {s : State} {a b : Word} (ha : AddressIs .addrPlain src s a)
    (hd : AddressIs .addrPlain dst s b) : exec (.call src dst) s = conclude (do
      let t ← store .externalMemory (s.regs.sp + 4) s.regs.ap s
      let t ← store .externalMemory s.regs.sp (t.regs.pc + BitVec.ofNat 32 (1 + src.length + dst.length)) t
      .ok (complete false (jump b (setReg .ap a (setReg .sp (s.regs.sp + 8) t))))) := by
  obtain ⟨wa, aa⟩ := ha
  obtain ⟨wd, ad⟩ := hd
  have operands := checkOperands_ok (os := [(.addrPlain, src), (.addrPlain, dst)]) (s := s) (by simp [wa, wd])
  show execCall src dst s = _
  simp only [execCall, operands, aa, ad, bind, Except.bind]

/-- A word read into the PC, AP and SP written (43_program_control R404). -/
theorem jumps_ret (x y sp : Word) (s : State) : Jumps [.ap, .sp] y s (jump y (setReg .ap x (setReg .sp sp s))) := by
  refine ⟨(sameMachine_setReg _ _ _).trans ((sameMachine_setReg _ _ _).trans (sameMachine_jump _ _)),
    ⟨rfl, rfl, rfl, rfl, rfl⟩, fun r hr hpc _ => ?_, fun _ => rfl, rfl⟩
  simp only [List.mem_cons, List.not_mem_nil, or_false, not_or] at hr
  rw [reg_jump, if_neg hpc, reg_setReg_ne hr.1, reg_setReg_ne hr.2]

/-- Settles O45. -/
theorem callAndReturn : Obligations.CallAndReturn := by
  unfold Obligations.CallAndReturn
  refine ⟨fun src dst s a b hi hp hsp ha hd => ?call, fun s x y hb hx hy => ?ret, fun s hb hx => ?refused,
    fun src dst s a b ws i hv hr hreset hsp hir hb wsrc wdst asrc adst => ?abandoned⟩
  case call =>
    rw [exec_call ha hd, length_call]
    generalize hx : s.regs.pc + BitVec.ofNat 32 (1 + src.length + dst.length) = x
    have first := store_plain hp (hsp.add (k := 4) rfl) .externalMemory s.regs.ap
    have second := store_plain (s := { s with mem := writeData s.mem .word (s.regs.sp + 4) s.regs.ap }) hp hsp
      .externalMemory x
    generalize s.regs.sp + 8 = top
    refine ⟨jump b (setReg .ap a (setReg .sp top
      { s with mem := writeData (writeData s.mem .word (s.regs.sp + 4) s.regs.ap) .word s.regs.sp x })), ?_,
      (sameMachine_mem _ s).trans ((sameMachine_setReg _ _ _).trans ((sameMachine_setReg _ _ _).trans (sameMachine_jump _ _))),
      ⟨rfl, rfl, rfl, rfl, rfl⟩, rfl, fun r hr hpc _ => ?_, rfl, rfl, wordsAt_pair hi.1 hsp _ _ rfl⟩
    · simp only [first, hx, second, bind, Except.bind, conclude]
    · simp only [List.mem_cons, List.not_mem_nil, or_false, not_or] at hr
      rw [reg_jump, if_neg hpc, reg_setReg_ne hr.2, reg_setReg_ne hr.1]
      rfl
  case ret =>
    have first : load .externalMemory (s.regs.sp - 4) s = .ok (x, s) := loadAs_quiet hb hx _
    have second : load .externalMemory (s.regs.sp - 8) s = .ok (y, s) := loadAs_quiet hb hy _
    refine ⟨_, ?_, jumps_ret x y s.regs.ap s, rfl, rfl⟩
    show execRet s = _
    simp only [execRet, first, second, bind, Except.bind, conclude]
  case refused =>
    show execRet s = _
    cases hx1 : memRead s .operandFetch .word (s.regs.sp - 4) with
    | none =>
      have first : load .externalMemory (s.regs.sp - 4) s = .error (.externalMemory, s) := loadAs_fails hb hx1 _
      simp only [execRet, first, bind, Except.bind, conclude]
    | some x =>
      have first : load .externalMemory (s.regs.sp - 4) s = .ok (x, s) := loadAs_quiet hb hx1 _
      have second : load .externalMemory (s.regs.sp - 8) s = .error (.externalMemory, s) :=
        loadAs_fails hb (hx.resolve_left (hx1 ▸ Option.some_ne_none x)) _
      simp only [execRet, first, second, bind, Except.bind, conclude]
  case abandoned =>
    have hsp4 : misaligned .word (s.regs.sp + 4) = false := hsp.add (k := 4) rfl
    let t : State := { s with bus := [{ writes := ws, inputs := some i }] }
    let u : State := { t with mem := writeData s.mem .word (s.regs.sp + 4) s.regs.ap }
    have turn : dataTurn .word (s.regs.sp + 4) s = .ok t := dataTurn_goes hb hsp4 hreset
    have reach : writeReach t .write .word (s.regs.sp + 4) s.regs.ap = some (.memory (s.regs.sp + 4)) := by
      simp only [writeReach, hsp4, Bool.false_eq_true, if_false]
      exact access_memory (s := t) hv hr _ _ _ _ _
    have first : store .externalMemory (s.regs.sp + 4) s.regs.ap s = .ok u := storeAs_ok.mpr ⟨t, _, turn, reach, rfl⟩
    have reset : dataTurn .word s.regs.sp u = .error (.externalReset, u.turned { writes := ws, inputs := some i } []) :=
      dataTurn_resets rfl hsp hir
    have second : ∀ x, store .externalMemory s.regs.sp x u =
        .error (.externalReset, u.turned { writes := ws, inputs := some i } []) :=
      fun x => by simp only [store, storeAs, reset, bind, Except.bind]
    rw [exec_call ⟨wsrc, asrc⟩ ⟨wdst, adst⟩]
    simp only [first, second, bind, Except.bind, conclude]
    rfl

/-! ## SAVE and RESTORE -/

/-- The registers SAVE %rn and RESTORE %rn move (43_program_control R402). -/
theorem savedRegs_register {r : Reg} (h : r.saveable = true) :
    savedRegs (.register r) = some (generalRegs.drop r.num.toNat) := if_pos h

theorem checkOperands_regList (r : Reg) (s : State) :
    checkOperands [(.regList, { mode := .register r })] s = .ok () := by
  cases r <;> rfl

/-- The registers from rn up, by number. -/
theorem generalRegs_drop (r : Reg) :
    generalRegs.drop r.num.toNat =
      (List.range (9 - r.num.toNat)).map fun k => Reg.ofNum (r.num + BitVec.ofNat 4 k) := by
  cases r <;> rfl

/-- Settles O46. -/
theorem saveResult : Obligations.SaveResult := by
  unfold Obligations.SaveResult
  intro r s hi hp hsp hr
  obtain ⟨m, stores, -, words⟩ := storeWords_plain (e := .externalMemory)
    (vs := s.regs.fp :: (generalRegs.drop r.num.toNat).map fun r => readReg r s.regs) hp hi.1 hsp
    (by simp only [List.length_cons, List.length_map, List.length_drop]; exact lt_of_le_of_lt (Nat.succ_le_succ (Nat.sub_le _ _)) (by decide))
  generalize htop : s.regs.sp + 28 = top
  refine ⟨advance 2 (setReg .fp top (setReg .sp top { s with mem := m })), ?_,
    (sameMachine_mem m s).trans ((sameMachine_setReg _ _ _).trans ((sameMachine_setReg _ _ _).trans (sameMachine_advance _ _))),
    ⟨rfl, rfl, rfl, rfl, rfl⟩, rfl, fun r' hr' hpc _ => ?_, rfl, rfl, ?_⟩
  · show execSave { mode := .register r } s = _
    simp only [execSave, checkOperands_regList r, savedRegs_register hr, stores, htop, bind, Except.bind, conclude]
    rfl
  · simp only [List.mem_cons, List.not_mem_nil, or_false, not_or] at hr'
    rw [reg_advance, if_neg hpc, reg_setReg_ne hr'.2, reg_setReg_ne hr'.1]
    rfl
  · rw [generalRegs_drop r, List.map_map] at words
    exact words

/-- The k-th register from rn up. -/
theorem generalRegs_getElem {r : Reg} {k : Nat} (hk : k < 9 - r.num.toNat) :
    (generalRegs.drop r.num.toNat)[k]? = some (Reg.ofNum (r.num + BitVec.ofNat 4 k)) := by
  rw [generalRegs_drop r, List.getElem?_map, List.getElem?_range hk, Option.map_some]

/-- Below rn nothing is moved. -/
theorem generalRegs_below (r : Reg) : ∀ k < 9, k < r.num.toNat →
    Reg.ofNum (BitVec.ofNat 4 k) ∉ generalRegs.drop r.num.toNat ∧ Reg.ofNum (BitVec.ofNat 4 k) ∈ generalRegs := by
  cases r <;> decide

/-- r0 to r8 are none of the registers RESTORE writes besides. -/
theorem generalRegs_ne {r : Reg} (h : r ∈ generalRegs) : r ≠ .pc ∧ r ≠ .fp ∧ r ≠ .sp ∧ r ≠ .psw := by
  revert r
  decide

/-- The state RESTORE leaves: the registers g loaded, FP and SP written, behind the instruction. -/
def restored (s : State) (g : Regs) (fp sp : Word) : State := advance 2 (setReg .fp fp (setReg .sp sp { s with regs := g }))

theorem restored_frame {s : State} {g : Regs} (hpc : g.pc = s.regs.pc) (hpsw : g.psw = s.regs.psw) (fp sp : Word) :
    SameMachine s (restored s g fp sp) ∧ GoesOn 2 s (restored s g fp sp) ∧ SameMemory s (restored s g fp sp) ∧
      SamePsw s (restored s g fp sp) ∧ (restored s g fp sp).regs.fp = fp ∧ (restored s g fp sp).regs.sp = sp :=
  ⟨⟨rfl, rfl, rfl, rfl, rfl, rfl, rfl, rfl, rfl, rfl, rfl, rfl⟩, ⟨congrArg (· + BitVec.ofNat 32 2) hpc, rfl, rfl, rfl, rfl⟩,
    fun _ => rfl, hpsw, rfl, rfl⟩

theorem reg_restored {r : Reg} (hpc : r ≠ .pc) (hf : r ≠ .fp) (hs : r ≠ .sp) (s : State) (g : Regs) (fp sp : Word) :
    reg (restored s g fp sp) r = readReg r g := by
  rw [restored, reg_advance, if_neg hpc, reg_setReg_ne hf, reg_setReg_ne hs]
  rfl

/-- Settles O47. -/
theorem restoreResult : Obligations.RestoreResult := by
  unfold Obligations.RestoreResult
  intro r s hp hfp hr
  have h28 : Aligned (s.regs.fp - 28) := hfp.sub (k := 28) rfl
  have sub : ∀ r', r' ∈ generalRegs.drop r.num.toNat → r' ∈ generalRegs := fun _ => List.mem_of_mem_drop
  obtain ⟨g, loads, others, loaded⟩ := loadRegs_plain (e := .externalMemory) (rs := generalRegs.drop r.num.toNat)
    (a := s.regs.fp - 28 + 4) hp (h28.add (k := 4) rfl) ((List.drop_sublist _ _).nodup (by decide))
    (fun h => absurd (sub _ h) (by decide))
  have base : s.regs.fp - 28 + 4 = s.regs.fp - 24 := by bv_omega
  have kept : ∀ r' ∈ generalRegs, ∀ v u : Word, reg (restored s g v u) r' = readReg r' g := by
    intro r' hg v u
    obtain ⟨hpc, hf, hs, -⟩ := generalRegs_ne hg
    exact reg_restored hpc hf hs s g v u
  have pc : g.pc = s.regs.pc := others .pc fun h => absurd (sub _ h) (by decide)
  have psw : g.psw = s.regs.psw := others .psw fun h => absurd (sub _ h) (by decide)
  obtain ⟨machine, goes, memory, flags, fp, sp⟩ :=
    restored_frame pc psw (wordAt s (s.regs.fp - 28)) (s.regs.fp - 28)
  refine ⟨_, ?runs, ⟨machine, goes, fun r' hr' hpc _ => ?frame, memory, flags⟩, fp, sp, fun k hk => ?loaded,
    fun k hk h9 => ?kept⟩
  case runs =>
    show execRestore { mode := .register r } s = _
    simp only [execRestore, checkOperands_regList r, savedRegs_register hr, load_plain hp h28, loads, bind, Except.bind,
      conclude]
    rfl
  case frame =>
    have outside : r' ∉ generalRegs.drop r.num.toNat :=
      fun h => hr' (List.mem_cons_of_mem _ (List.mem_cons_of_mem _ (sub r' h)))
    simp only [List.mem_cons, not_or] at hr'
    obtain ⟨hs, hf, -⟩ := hr'
    rw [reg_restored hpc hf hs, others r' outside]
  case loaded =>
    have at_k := generalRegs_getElem hk
    rw [kept _ (sub _ (List.mem_of_getElem? at_k)), loaded k _ at_k, base]
  case kept =>
    obtain ⟨outside, general⟩ := generalRegs_below r k h9 hk
    rw [kept _ general, others _ outside]

/-! ## Instructions without operands -/

/-- Settles O53. -/
theorem simpleInstructions : Obligations.SimpleInstructions := by
  unfold Obligations.SimpleInstructions
  refine ⟨fun s => ⟨fun e he => ?nops, ⟨_, rfl, advances_advance_setReg (by decide) (by decide) _ _ _, rfl⟩,
    ⟨_, rfl, advances_advance 1 (flushCache s)⟩⟩, fun s => ⟨fun hp => ⟨⟨advance 1 s, ?bpt, advances_advance _ _⟩, ?extop⟩,
    fun hp => ⟨⟨advance 1 { s with pendingOverflow := false }, ?late, advances_advance _ _⟩, rfl⟩⟩⟩
  case nops =>
    have run : exec e.1 s = .next (complete false (advance e.2 s)) := by fin_cases he <;> exact rfl
    exact ⟨_, run, advances_advance _ _⟩
  case bpt =>
    show execBpt s = _
    simp only [execBpt, advance_pendingOverflow, hp, Bool.false_eq_true, if_false]
  case extop =>
    have same : { s with pendingOverflow := false } = s := by
      obtain ⟨⟩ := s
      cases hp
      rfl
    show execExtop s = _
    rw [execExtop, fault, same]
  case late =>
    show execBpt s = _
    simp only [execBpt, advance_pendingOverflow, hp, if_true]
    rw [complete_pending (by exact hp)]
    rfl

/-- Settles O59. -/
theorem virtualModeJumps : Obligations.VirtualModeJumps := by
  unfold Obligations.VirtualModeJumps
  intro e he s
  have run : exec e.1 s = conclude (switchVirtual e.2 s) := by fin_cases he <;> exact rfl
  refine ⟨fun hk => ⟨jump s.regs.r0 (flushCache { s with virtualMode := e.2 }), ?_, rfl, jumps_jump _ _⟩, fun hk => ?_⟩
  · have kernel : isKernel s = true := beq_iff_eq.mpr hk
    simp only [run, switchVirtual, requireKernel, kernel, if_true, bind, Except.bind, conclude]
  · have user : isKernel s = false := beq_eq_false_iff_ne.mpr hk
    rw [run]
    exact conclude_requireKernel user _

end Sys2Proof.Machine
end

section
/-! The obligations on data moved through memory and the stack, on RETG, and on WAIT and INTACK (spec/40_data_transfer.md,
45_stack_misc.md, 46_operating_system.md). -/

namespace Sys2Proof.Machine

/-! ## Address moves -/

theorem length_movaw (src dst : Operand) : (encode (.movaw src dst)).length = 1 + src.length + dst.length :=
  length_cons_two _ _ _

theorem length_movtrw (src dst : Operand) : (encode (.movtrw src dst)).length = 1 + src.length + dst.length :=
  length_cons_two _ _ _

/-- The word of a MOVTRW access that reached q (46_operating_system R488). -/
def movedWord (s : State) (q : Reached) : Word :=
  match q with
  | .memory b => if translating s then b else readData s.mem .word b
  | .device v => v

theorem translatedWord_quiet {s : State} {a : Word} {q : Reached} (hb : s.bus = [])
    (hq : readReach s .moveTranslated .word a = some q) : translatedWord a s = .ok (movedWord s q, s) := by
  cases q <;> simp only [translatedWord, dataTurn_quiet hb, bind, Except.bind, hq, movedWord]

/-- Settles O29. -/
theorem addressMoves : Obligations.AddressMoves := by
  unfold Obligations.AddressMoves
  refine ⟨fun src dst s t a p hi ha hd => ?address, fun src dst s t a x q p hi hb ha hd hq hx => ?translated⟩
  case address =>
    obtain ⟨wf, address⟩ := ha
    obtain ⟨wd, permitted, rfl, resolved, storable⟩ := hd
    have operands := checkOperands_ok (os := [(.addr, src), (.dst, dst)]) (s := s) (by simp [wf, wd])
    obtain ⟨w, ends, wrote⟩ := finish_wrote hi (resolve_ne_pc wd resolved) storable false (1 + src.length + dst.length)
      (caseOne (typeAt (typeAt .sword src) dst) a) rfl
    rw [length_movaw, keepsFlags_0]
    rw [Bool.false_or] at wrote
    refine ⟨w, ?_, wrote⟩
    show execMovaw src dst s = _
    simp only [execMovaw, operands, checkPrivilege_ok permitted, bind, Except.bind, address, resolved, ends, conclude]
    rfl
  case translated =>
    obtain ⟨wf, address⟩ := ha
    obtain ⟨wd, permitted, rfl, resolved, storable⟩ := hd
    have operands := checkOperands_ok (os := [(.addr, src), (.dst, dst)]) (s := s) (by simp [wf, wd])
    have moved : movedWord s q = x := by cases q <;> exact hx.symm
    have word : translatedWord a s = .ok (x, s) := moved ▸ translatedWord_quiet hb hq
    obtain ⟨w, ends, wrote⟩ := finish_wrote hi (resolve_ne_pc wd resolved) storable false (1 + src.length + dst.length)
      { value := x, flags := wordFlags x } rfl
    rw [length_movtrw, keepsFlags_0]
    rw [Bool.false_or] at wrote
    refine ⟨w, ?_, wrote⟩
    show execMovtrw src dst s = _
    simp only [execMovtrw, operands, checkPrivilege_ok permitted, bind, Except.bind, address, word, resolved, ends, conclude]
    rfl

/-! ## Swap -/

theorem runs_swaps : ∀ e ∈ [(Instr.swapbi, OType.ubyte), (.swaphi, .shalf), (.swapwi, .sword)], ∀ dst,
    (encode (e.1 dst)).length = 1 + dst.length ∧ ∀ s, exec (e.1 dst) s = swapShape e.2 dst s := by
  intro e he
  fin_cases he <;> exact fun _ => ⟨length_cons_one _ _, fun _ => rfl⟩

/-- The exchange, once the datum is read: bus, memory and inputs are those the read's turn left, and the write takes no
turn of its own (20_memory R100). -/
theorem swapShape_next {s : State} (hi : s.Inv) {dst : Operand} {c : OType} {a x : Word} {q : Reached}
    {rest : List BusEvent} {m : Memory} {i : Inputs} (hm : m.wf = true) (ha : AddressIs .addrPlain dst s a)
    (hx : loadAs .interlocked (typeSize c) .externalMemory a s = .ok (x, { s with bus := rest, mem := m, inputs := i }))
    (hq : writeReach { s with bus := rest, mem := m, inputs := i } .interlocked (typeSize c) a s.regs.r0 = some q) :
    let t := { s with bus := rest, mem := m, inputs := i }
    let v := extend c x
    ∃ w, swapShape c dst s = .next (complete false w) ∧ SameMachine t w ∧ GoesOn (1 + dst.length) s w ∧ RegsBut [.r0] s w ∧
      w.regs.r0 = v ∧ StoredAt (typeSize c) q s.regs.r0 t w ∧
      FlagsAre false (packFlags (msbOf c v) (isZero c v) false false) s w := by
  intro t v
  obtain ⟨wf, address⟩ := ha
  have operands := checkOperands_ok (os := [(.addrPlain, dst)]) (s := s) (by simpa using wf)
  generalize hf : packFlags (msbOf c v) (isZero c v) false false = f
  have write : put .interlocked (typeSize c) .externalMemory a s.regs.r0 (setFlags f t) =
      .ok { setFlags f t with mem := deposited m (typeSize c) q s.regs.r0 } :=
    put_ok.mpr ⟨q, by rw [writeReach_setFlags]; exact hq, rfl⟩
  refine ⟨advance (1 + dst.length) (setReg .r0 v { setFlags f t with mem := deposited m (typeSize c) q s.regs.r0 }), ?runs,
    ⟨rfl, rfl, rfl, rfl, rfl, rfl, rfl, rfl, rfl, rfl, rfl, rfl⟩, ⟨rfl, rfl, rfl, rfl, rfl⟩, fun r hr hpc hpsw => ?frame,
    rfl, storedAt_deposited hm rfl, flagsAre_setFlags hi.2.1 f false⟩
  case runs =>
    simp only [swapShape, operands, address, hx, bind, Except.bind]
    simp only [v] at hf
    rw [hf]
    exact conclude_ok (by rw [show (setFlags f t).regs.r0 = s.regs.r0 from rfl, write])
  case frame =>
    rw [reg_advance, if_neg hpc, reg_setReg_ne (fun h => hr (List.mem_singleton.mpr h))]
    exact reg_setFlags_ne hpsw f t

/-- What was read was aligned. -/
theorem aligned_of_memRead {s : State} {st : Status} {size : Size} {a x : Word} (h : memRead s st size a = some x) :
    misaligned size a = false := by
  by_contra hm
  rw [Bool.not_eq_false] at hm
  simp [memRead, readReach, hm] at h

/-- Settles O30. -/
theorem swapResult : Obligations.SwapResult := by
  unfold Obligations.SwapResult
  constructor
  · intro e he dst s a x q hi hb ha hx hq
    obtain ⟨len, run⟩ := runs_swaps e he dst
    rw [run, len]
    exact swapShape_next hi (rest := s.bus) (i := s.inputs) hi.1 ha (loadAs_quiet hb hx _) hq
  · intro e he dst s b rest a x q t hi hb hr ha hx hq
    obtain ⟨len, run⟩ := runs_swaps e he dst
    rw [run, len]
    exact swapShape_next hi (wf_busWritten hi.1 b.writes) ha
      (loadAs_ok.mpr ⟨dataTurn_goes hb (aligned_of_memRead hx) hr, hx⟩) hq

/-! ## Block move and strings -/

/-- Between two iterations of k: registers g and memory m, the program counter and the PSW as before. -/
theorem iterates_of {k : Iteration} {rs : List Reg} {s : State} {g : Regs} (m : Memory) (hpc : g.pc = s.regs.pc)
    (hpsw : g.psw = s.regs.psw) (hg : ∀ r, r ∉ rs → readReg r g = reg s r) :
    Iterates k rs s { s with regs := g, mem := m, phase := .iterating k } :=
  ⟨⟨rfl, rfl, rfl, rfl, rfl, rfl, rfl, rfl, rfl, rfl, rfl, rfl⟩, fun r hr _ _ => hg r hr, hpsw, hpc, rfl, rfl, rfl, rfl⟩

theorem readReg_writeReg_ne {r r' : Reg} (h : r' ≠ r) (v : Word) (g : Regs) : readReg r' (writeReg r v g) = readReg r' g := by
  rw [readReg_writeReg, if_neg h]

theorem moveWord_copies {s : State} {x : Word} {q : Reached} (hi : s.Inv) (h2 : s.regs.r2 ≠ 0) (hb : s.bus = [])
    (hx : memRead s .operandFetch .word s.regs.r0 = some x) (hq : writeReach s .write .word s.regs.r1 x = some q) :
    ∃ w, moveWord s = .ok w ∧ Iterates .movblw [.r0, .r1, .r2] s w ∧ w.regs.r0 = s.regs.r0 + 4 ∧
      w.regs.r1 = s.regs.r1 + 4 ∧ w.regs.r2 = s.regs.r2 - 1 ∧ StoredAt .word q x s w := by
  have read : load .externalMemory s.regs.r0 s = .ok (x, s) := loadAs_quiet hb hx _
  have write : store .externalMemory s.regs.r1 x s = .ok { s with mem := deposited s.mem .word q x } := storeAs_quiet hb hq _
  refine ⟨_, by simp only [moveWord, h2, if_false, copyWord, read, write, bind, Except.bind]; rfl, ?_⟩
  generalize s.regs.r0 + 4 = y0
  generalize s.regs.r1 + 4 = y1
  generalize s.regs.r2 - 1 = y2
  refine ⟨iterates_of (g := writeReg .r1 y1 (writeReg .r0 y0 (writeReg .r2 y2 s.regs))) _ rfl rfl fun r hr => ?_, rfl, rfl,
    rfl, storedAt_deposited hi.1 rfl⟩
  simp only [List.mem_cons, List.not_mem_nil, or_false, not_or] at hr
  obtain ⟨h0, h1, h2⟩ := hr
  rw [readReg_writeReg_ne h1, readReg_writeReg_ne h0, readReg_writeReg_ne h2, reg]

/-- STRCPY's two accesses (40_data_transfer R219). -/
theorem copyByte_quiet {s : State} {b : Word} {q : Reached} (hb : s.bus = [])
    (hx : memRead s .operandFetch .byte s.regs.r0 = some b) (hq : writeReach s .write .byte s.regs.r1 b = some q) :
    copyByte s =
      let t := { s with mem := deposited s.mem .byte q b }
      if b = 0 then .ok (finishIterating t)
      else .ok { setReg .r1 (s.regs.r1 + 1) (setReg .r0 (s.regs.r0 + 1) t) with phase := .iterating .strcpy } := by
  have write : storeAs .write .byte .externalMemory s.regs.r1 b s = .ok { s with mem := deposited s.mem .byte q b } :=
    storeAs_quiet hb hq _
  simp only [copyByte, loadAs_quiet hb hx, write, bind, Except.bind]

theorem scanByte_quiet {s : State} {b : Word} (hb : s.bus = []) (hx : memRead s .operandFetch .byte s.regs.r0 = some b) :
    scanByte s = if b = 0 then .ok (finishIterating s)
      else .ok { setReg .r0 (s.regs.r0 + 1) s with phase := .iterating .strend } := by
  simp only [scanByte, loadAs_quiet hb hx, bind, Except.bind]

/-- Settles O31. -/
theorem blockAndStringIterations : Obligations.BlockAndStringIterations := by
  unfold Obligations.BlockAndStringIterations
  refine ⟨fun s hi => ⟨fun h2 => ⟨advance 2 { s with phase := .running }, ?ended, advances_advance _ _⟩,
    fun x q h2 hb hx hq => ?moved⟩, fun s b hi hb hx => ⟨fun q hq h0 => ?copied, fun q hq h0 => ?copying,
    fun h0 => ⟨advance 2 { s with phase := .running }, ?scanned, advances_advance _ _⟩, fun h0 => ?scanning⟩⟩
  case ended => exact conclude_ok (if_pos h2)
  case moved =>
    obtain ⟨w, run, left⟩ := moveWord_copies hi h2 hb hx hq
    exact ⟨w, conclude_ok run, left⟩
  case copied =>
    subst h0
    exact ⟨advance 2 { s with mem := deposited s.mem .byte q 0, phase := .running },
      conclude_ok (copyByte_quiet hb hx hq), ⟨rfl, rfl, rfl, rfl, rfl, rfl, rfl, rfl, rfl, rfl, rfl, rfl⟩,
      ⟨rfl, rfl, rfl, rfl, rfl⟩, fun r _ hpc _ => by rw [reg_advance, if_neg hpc]; rfl, rfl, storedAt_deposited hi.1 rfl⟩
  case copying =>
    have run := copyByte_quiet hb hx hq
    simp only [h0, if_false] at run
    refine ⟨_, conclude_ok run, ?_⟩
    generalize s.regs.r0 + 1 = y0
    generalize s.regs.r1 + 1 = y1
    refine ⟨iterates_of (g := writeReg .r1 y1 (writeReg .r0 y0 s.regs)) _ rfl rfl fun r hr => ?_, rfl, rfl,
      storedAt_deposited hi.1 rfl⟩
    simp only [List.mem_cons, List.not_mem_nil, or_false, not_or] at hr
    obtain ⟨h0, h1⟩ := hr
    rw [readReg_writeReg_ne h1, readReg_writeReg_ne h0, reg]
  case scanned =>
    have run := scanByte_quiet hb hx
    rw [if_pos h0] at run
    exact conclude_ok run
  case scanning =>
    have run := scanByte_quiet hb hx
    rw [if_neg h0] at run
    refine ⟨_, conclude_ok run, ?_⟩
    generalize s.regs.r0 + 1 = y0
    refine ⟨iterates_of (g := writeReg .r0 y0 s.regs) _ rfl rfl fun r hr => ?_, rfl, fun _ => rfl⟩
    rw [readReg_writeReg_ne (fun h => hr (List.mem_singleton.mpr h)), reg]

/-! ## The stack -/

theorem length_pushw (src : Operand) : (encode (.pushw src)).length = 1 + src.length := length_cons_one _ _

theorem length_pushaw (src : Operand) : (encode (.pushaw src)).length = 1 + src.length := length_cons_one _ _

theorem length_popw (dst : Operand) : (encode (.popw dst)).length = 1 + dst.length := length_cons_one _ _

/-- A word pushed behind its flags (45_stack_misc R450). -/
theorem push_pushes {s : State} {x : Word} {q : Reached} (hi : s.Inv) (hb : s.bus = [])
    (hq : writeReach s .write .word s.regs.sp x = some q) (keep : Bool) (f : BitVec 4) (len : Nat) :
    ∃ t, push x (applyFlags keep f s) = .ok t ∧ SameMachine s (advance len t) ∧ GoesOn len s (advance len t) ∧
      RegsBut [.sp] s (advance len t) ∧ (advance len t).regs.sp = s.regs.sp + 4 ∧ FlagsAre keep f s (advance len t) ∧
      StoredAt .word q x s (advance len t) := by
  have sp : (applyFlags keep f s).regs.sp = s.regs.sp := by cases keep <;> rfl
  have mem : (applyFlags keep f s).mem = s.mem := by cases keep <;> rfl
  have bus : (applyFlags keep f s).bus = [] := by cases keep <;> exact hb
  have same := sameMachine_applyFlags keep f s
  have write : store .externalMemory s.regs.sp x (applyFlags keep f s) =
      .ok { applyFlags keep f s with mem := deposited s.mem .word q x } :=
    mem ▸ storeAs_quiet bus (by rw [writeReach_applyFlags]; exact hq) _
  have flags := flagsAre_setFlags hi.2.1 f keep
  have cache : (applyFlags keep f s).regs.pc = s.regs.pc ∧ (applyFlags keep f s).icache = s.icache ∧
      (applyFlags keep f s).iqueue = s.iqueue ∧ (applyFlags keep f s).cacheCorrupt = s.cacheCorrupt := by
    cases keep <;> exact ⟨rfl, rfl, rfl, rfl⟩
  have others : ∀ r, r ≠ .psw → reg (applyFlags keep f s) r = reg s r := fun r hr => reg_applyFlags_ne hr
  simp only [push, sp, write, bind, Except.bind]
  generalize applyFlags keep f s = u at same flags cache others sp ⊢
  generalize s.regs.sp + 4 = top
  obtain ⟨hpc, hc, hqueue, hcorrupt⟩ := cache
  refine ⟨_, rfl, same.trans ⟨rfl, rfl, rfl, rfl, rfl, rfl, rfl, rfl, rfl, rfl, rfl, rfl⟩,
    ⟨congrArg (· + BitVec.ofNat 32 len) hpc, rfl, hc, hqueue, hcorrupt⟩, fun r hr hpc hpsw => ?_, rfl, flags,
    storedAt_deposited hi.1 rfl⟩
  rw [reg_advance, if_neg hpc, reg_setReg_ne (fun h => hr (List.mem_singleton.mpr h))]
  exact others r hpsw

/-- Settles O51. -/
theorem pushResult : Obligations.PushResult := by
  unfold Obligations.PushResult
  intro src s q hi hb
  refine ⟨fun v wf read hq => ?word, fun a ha hq => ?address⟩
  case word =>
    have operands := checkOperands_ok (os := [(.srcPlain, src)]) (s := s) (by simpa using wf)
    obtain ⟨t, run, pushed⟩ := push_pushes hi hb hq (readsPsw src) (wordFlags v.bits) (1 + src.length)
    obtain ⟨machine, goes, regs, sp, flags, stored⟩ := pushed
    rw [length_pushw]
    refine ⟨_, ?_, machine, goes, regs, sp, flags, stored⟩
    show execPushw src s = _
    simp only [execPushw, operands, read, run, bind, Except.bind, conclude]
  case address =>
    obtain ⟨wf, address⟩ := ha
    have operands := checkOperands_ok (os := [(.addrPlain, src)]) (s := s) (by simpa using wf)
    obtain ⟨t, run, pushed⟩ := push_pushes hi hb hq false (wordFlags a) (1 + src.length)
    obtain ⟨machine, goes, regs, sp, flags, stored⟩ := pushed
    have run : push a (setFlags (wordFlags a) s) = .ok t := run
    rw [length_pushaw]
    refine ⟨_, ?_, machine, goes, regs, sp, flags, stored⟩
    show execPushaw src s = _
    simp only [execPushaw, operands, address, run, bind, Except.bind, conclude]

/-- A destination that is not SP is written alike before and after SP moves. -/
theorem writePlace_setReg_sp {s : State} {p : Place} (hb : s.bus = []) (hp : p ≠ .register .sp)
    (hs : ∀ a, p = .memory a → ∀ v, (writeReach s .write .word a v).isSome = true) (x v : Word) (keep : Bool) (f : BitVec 4) :
    ∃ t, writePlace .sword p x (applyFlags keep f s) = .ok t ∧
      writePlace .sword p x (applyFlags keep f (setReg .sp v s)) = .ok (setReg .sp v t) := by
  have commute : applyFlags keep f (setReg .sp v s) = setReg .sp v (applyFlags keep f s) := by cases keep <;> rfl
  have bus : (applyFlags keep f s).bus = [] := by cases keep <;> exact hb
  rw [commute]
  cases p with
  | memory a =>
    obtain ⟨q, hq⟩ := Option.isSome_iff_exists.mp (hs a rfl x)
    have reach : writeReach (applyFlags keep f s) .write .word a x = some q := by rw [writeReach_applyFlags]; exact hq
    have moved : writeReach (setReg .sp v (applyFlags keep f s)) .write .word a x = some q := by
      rw [← reach]
      exact writeReach_congr (t := setReg .sp v (applyFlags keep f s)) rfl rfl rfl _ _ _ _
    exact ⟨_, storeAs_quiet bus reach _, storeAs_quiet (s := setReg .sp v (applyFlags keep f s)) bus moved _⟩
  | register r =>
    refine ⟨_, rfl, congrArg Except.ok ?_⟩
    have ne : r ≠ .sp := fun h => hp (h ▸ rfl)
    generalize applyFlags keep f s = u
    by_cases hr : r = .psw
    · subst hr
      simp only [writeOperandReg, if_true, writePsw]
      have psw : (setReg .sp v u).regs.psw = u.regs.psw := rfl
      rw [psw]
      split <;> rfl
    · simp only [writeOperandReg, hr, if_false]
      cases r <;> first | rfl | exact absurd rfl ne

theorem inv_setReg_sp {s : State} (hi : s.Inv) (v : Word) : (setReg .sp v s).Inv := hi

/-- Settles O52. -/
theorem popResult : Obligations.PopResult := by
  unfold Obligations.PopResult
  intro dst s p x hi hb wf permitted resolved storable hx f
  have operands := checkOperands_ok (os := [(.dstPlain, dst)]) (s := s) (by simpa using wf)
  have read : load .externalMemory (s.regs.sp - 4) s = .ok (x, s) := loadAs_quiet hb hx _
  have ne_pc := resolve_ne_pc wf resolved
  have keep : p = .register .psw → isPsw p = true := by rintro rfl; rfl
  rw [length_popw, keepsFlags_0]
  by_cases hsp : p = .register .sp
  · subst hsp
    obtain ⟨t, write, -, -⟩ := writePlace_wrote hi ne_pc storable x (isPsw (.register .sp)) (wordFlags x) (1 + dst.length) keep
    obtain ⟨t', write', -, wrote⟩ := writePlace_wrote hi ne_pc storable (Config.popStackPointer s.free)
      (isPsw (.register .sp)) (wordFlags x) (1 + dst.length) keep
    refine ⟨advance (1 + dst.length) t', ?_, fun ne => absurd rfl ne, fun _ => ⟨_, wrote⟩⟩
    cases write
    cases write'
    show execPopw dst s = _
    simp only [execPopw, operands, checkPrivilege_ok permitted, resolved, read, bind, Except.bind, if_true, conclude]
    rfl
  · have reaches : ∀ a, p = .memory a → ∀ v, (writeReach s .write .word a v).isSome = true := by
      rintro a rfl
      exact storable.2
    obtain ⟨t, write, moved⟩ := writePlace_setReg_sp hb hsp reaches x (s.regs.sp - 4) (isPsw p) (wordFlags x)
    have storable' : Storable .sword p (setReg .sp (s.regs.sp - 4) s) := by
      cases p with
      | register => exact trivial
      | memory a =>
        refine ⟨hb, fun v => ?_⟩
        rw [writeReach_congr (s := s) (t := setReg .sp (s.regs.sp - 4) s) rfl rfl rfl]
        exact storable.2 v
    obtain ⟨t', write', -, wrote⟩ := writePlace_wrote (inv_setReg_sp hi (s.regs.sp - 4)) ne_pc storable' x (isPsw p)
      (wordFlags x) (1 + dst.length) keep
    rw [moved] at write'
    cases write'
    refine ⟨advance (1 + dst.length) (setReg .sp (s.regs.sp - 4) t), ?_, fun _ => ⟨rfl, wrote⟩, fun h => absurd h hsp⟩
    show execPopw dst s = _
    simp only [execPopw, operands, checkPrivilege_ok permitted, resolved, read, write, bind, Except.bind, hsp, if_false,
      conclude]

/-! ## RETG -/

/-- The PSW RETG installs, field by field (46_operating_system R474). -/
theorem returnImage_eq (saved old : Word) :
    returnImage saved old &&& maskPsw = (saved &&& 0x007E1E80) ||| (old &&& 0x0381E100) ||| 0x3B := by
  apply BitVec.eq_of_getLsbD_eq
  intro i hi
  rw [BitVec.getLsbD_and, returnImage, withCodes, withR, withIpl, getLsbD_merge _ _ _ hi, getLsbD_merge _ _ _ hi,
    getLsbD_merge _ _ _ hi, getLsbD_merge _ _ _ hi, getLsbD_codes _ _ _ hi]
  interval_cases i <;> simp [maskCodes, maskR, maskCache, maskIpl, maskPsw, pswR, pswIpl]

/-- Settles O55. -/
theorem returnFromGate : Obligations.ReturnFromGate := by
  unfold Obligations.ReturnFromGate
  refine ⟨fun s hb hr => ?refused, fun s hp hsp => ⟨fun hle => ?returns, fun hlt => ?inward⟩⟩
  case refused =>
    show execRetg s = _
    cases h4 : memRead s .operandFetch .word (s.regs.sp - 4) with
    | none =>
      have first : load .stackFault (s.regs.sp - 4) s = .error (.stackFault, s) := loadAs_fails hb h4 _
      simp only [execRetg, first, bind, Except.bind, conclude]
    | some x =>
      have first : load .stackFault (s.regs.sp - 4) s = .ok (x, s) := loadAs_quiet hb h4 _
      have second : load .stackFault (s.regs.sp - 8) s = .error (.stackFault, s) :=
        loadAs_fails hb (hr.resolve_left fun h => Option.some_ne_none x (h4.symm.trans h)) _
      simp only [execRetg, first, second, bind, Except.bind, conclude]
  case returns =>
    have first := load_plain hp (hsp.sub (k := 4) rfl) .stackFault
    have second := load_plain hp (hsp.sub (k := 8) rfl) .stackFault
    have level : (pswCm (wordAt s (s.regs.sp - 4))).ult (currentLevel s) = false :=
      decide_eq_false (Nat.not_lt.mpr hle)
    generalize wordAt s (s.regs.sp - 4) = saved at first level
    generalize htop : s.regs.sp - 8 = top at second
    generalize wordAt s top = pc at second
    refine ⟨jump pc (setReg .sp top (setPsw (returnImage saved s.regs.psw) s)), ?_,
      ⟨rfl, rfl, rfl, rfl, rfl, rfl, rfl, rfl, rfl, rfl, rfl, rfl⟩, ⟨rfl, rfl, rfl, rfl, rfl⟩,
      returnImage_eq saved s.regs.psw, rfl, fun r hr => ?_, fun _ => rfl⟩
    · show execRetg s = _
      simp only [execRetg, first, htop, second, bind, Except.bind, level, Bool.false_eq_true, if_false, conclude]
    · simp only [List.mem_cons, List.not_mem_nil, or_false, not_or] at hr
      obtain ⟨hpc, hpsw, hs⟩ := hr
      rw [reg_jump, if_neg hpc, reg_setReg_ne hs, reg_setPsw, if_neg hpsw]
  case inward =>
    have first := load_plain hp (hsp.sub (k := 4) rfl) .stackFault
    have second := load_plain hp (hsp.sub (k := 8) rfl) .stackFault
    have level : (pswCm (wordAt s (s.regs.sp - 4))).ult (currentLevel s) = true := decide_eq_true hlt
    show execRetg s = _
    simp only [execRetg, first, second, bind, Except.bind, level, if_true, conclude]

/-! ## WAIT and INTACK -/

/-- WAIT at kernel level: a trap that is due is taken, else the machine waits (46_operating_system R486). -/
theorem exec_wait {s : State} (hk : isKernel s = true) : exec .wait s =
    if s.pendingOverflow || traceDue s then .next (complete false (advance 1 s))
    else .next { advance 1 s with phase := .waiting, traceOpen := false } := by
  show execWait s = _
  have due : traceDue (advance 1 s) = traceDue s := rfl
  simp only [execWait, requireKernel, hk, if_true, bind, Except.bind, advance_pendingOverflow, due]
  cases s.pendingOverflow || traceDue s <;> rfl

theorem exec_intack {s t : State} {v : Word} (hk : isKernel s = true) (h : intackValue s = .ok (v, t)) :
    exec .intack s = .next (complete false (advance 2 (setReg .r0 v t))) := by
  show execIntack s = _
  simp only [execIntack, requireKernel, hk, if_true, bind, Except.bind, h, conclude]

theorem exec_intack_refused {s t : State} {e : Exn} (hk : isKernel s = true) (h : intackValue s = .error (e, t)) :
    exec .intack s = .next (fault e t) := by
  show execIntack s = _
  simp only [execIntack, requireKernel, hk, if_true, bind, Except.bind, h, conclude]

/-- A byte in bits 7 to 0, shifted to a multiple of 4. -/
theorem byte_shiftLeft (b : Byte) : b.zeroExtend 32 <<< 2 = BitVec.ofNat 32 (4 * b.toNat) := by
  have := b.isLt
  apply BitVec.eq_of_toNat_eq
  simp only [BitVec.toNat_shiftLeft, BitVec.truncate_eq_setWidth, BitVec.toNat_setWidth, BitVec.toNat_ofNat, Nat.shiftLeft_eq]
  omega

theorem truncated_byte_shiftLeft (x : Word) : truncated .byte x <<< 2 = BitVec.ofNat 32 (4 * (x.toNat % 256)) := by
  rw [truncated, byte_shiftLeft, BitVec.extractLsb'_toNat, Nat.shiftRight_zero]

theorem raise_not_waiting (e : Exn) (s : State) : (raise e s).phase ≠ .waiting := by
  rcases raise_phase e s with h | ⟨x, h⟩ <;> rw [h] <;> nofun

/-- Settles O60. -/
theorem waitAndInterruptAcknowledge : Obligations.WaitAndInterruptAcknowledge := by
  unfold Obligations.WaitAndInterruptAcknowledge
  intro s hk
  have late (hp : s.pendingOverflow = true) :
      exec .wait s = .next (raise .integerOverflow (advance 1 { s with pendingOverflow := false })) := by
    rw [exec_wait hk, hp, Bool.true_or, if_pos rfl, complete_pending (by exact hp)]
    rfl
  have traced (hp : s.pendingOverflow = false) (hd : traceDue s = true) :
      exec .wait s = .next (raise .trace (advance 1 { s with traceOpen := false })) := by
    have due : traceDue (advance 1 s) = true := hd
    rw [exec_wait hk, hd, Bool.or_true, if_pos rfl, complete_untrapped (by exact hp), traceTest_due due]
    rfl
  have waits (hp : s.pendingOverflow = false) (hd : traceDue s = false) :
      exec .wait s = .next (advance 1 { s with phase := .waiting, traceOpen := false }) := by
    have test : (s.pendingOverflow || traceDue s) = false := by rw [hp, hd, Bool.or_false]
    rw [exec_wait hk, if_neg (Bool.eq_false_iff.mp test)]
    rfl
  have closed (ho : s.traceOpen = false) := traceClosed_eq ho
  refine ⟨fun hp ho ht => ⟨_, waits hp ((traceDue_closed ho).trans ht), ?quiet⟩, fun hp => ⟨_, late hp, advances_advance _ _⟩,
    fun hp ho ht => ⟨_, traced hp ((traceDue_closed ho).trans ht), ?traced⟩, fun hp ho => ?opened, fun h => ?notWaiting,
    fun hb => ⟨fun hn => ?nonmaskable, fun hn ha => ?autovector, fun hn ha => ?acknowledge⟩⟩
  case quiet =>
    have same : { s with phase := .waiting, traceOpen := false } = { s with phase := .waiting } :=
      traceClosed_eq (s := { s with phase := .waiting }) ho
    rw [same]
    exact advances_advance _ _
  case traced =>
    rw [closed ho]
    exact advances_advance _ _
  case opened =>
    cases hd : traceDue s with
    | false => exact .inl ⟨_, waits hp hd, advances_advance _ _⟩
    | true => exact .inr ⟨_, traced hp hd, advances_advance _ _⟩
  case notWaiting =>
    cases hp : s.pendingOverflow with
    | true => exact ⟨_, late hp, raise_not_waiting _ _⟩
    | false =>
      obtain ⟨ho, ht⟩ := h.resolve_left (by rw [hp]; exact Bool.false_ne_true)
      exact ⟨_, traced hp ((traceDue_closed ho).trans ht), raise_not_waiting _ _⟩
  case nonmaskable =>
    have value : intackValue s = .ok (0, s) := by
      simp only [intackValue, hn, if_true, busTurn_quiet hb, bind, Except.bind]
    exact ⟨_, exec_intack hk value, advances_advance_setReg (by decide) (by decide) _ _ _, rfl⟩
  case autovector =>
    have value : intackValue s = .ok (Config.intackAutoVector s.free, s) := by
      simp only [intackValue, hn, ha, Bool.false_eq_true, if_false, if_true, busTurn_quiet hb, bind, Except.bind]
    exact ⟨_, _, exec_intack hk value, advances_advance_setReg (by decide) (by decide) _ _ _, rfl⟩
  case acknowledge =>
    refine ⟨fun h => ?silent, fun x next h => ?device, fun h => ?faulted⟩
    case silent =>
      have value : intackValue s = .ok (BitVec.ofNat 32 (4 * s.inputs.intId.toNat), s) := by
        simp only [intackValue, hn, ha, Bool.false_eq_true, if_false, acknowledge, busTurn_quiet hb, bind, Except.bind, h,
          byte_shiftLeft]
      exact ⟨_, exec_intack hk value, advances_advance_setReg (by decide) (by decide) _ _ _, rfl⟩
    case device =>
      have value : intackValue s = .ok (BitVec.ofNat 32 (4 * (x.toNat % 256)), s) := by
        simp only [intackValue, hn, ha, Bool.false_eq_true, if_false, acknowledge, busTurn_quiet hb, bind, Except.bind, h,
          truncated_byte_shiftLeft]
      exact ⟨_, exec_intack hk value, advances_advance_setReg (by decide) (by decide) _ _ _, rfl⟩
    case faulted =>
      have value : intackValue s = .error (.externalMemory, s) := by
        simp only [intackValue, hn, ha, Bool.false_eq_true, if_false, acknowledge, busTurn_quiet hb, bind, Except.bind, h]
      exact exec_intack_refused hk value

end Sys2Proof.Machine
end

section
/-! The obligations on GATE, on normal exceptions and on the quick interrupt: a context is pushed, and PSW and PC come from
a table (spec/46_operating_system.md R472, R473; spec/60_exceptions.md R520, R534). -/

namespace Sys2Proof.Machine

/-! ## The words pushed and the words installed -/

theorem aligned_masked {v mask : Word} (h0 : mask.getLsbD 0 = false) (h1 : mask.getLsbD 1 = false) :
    Aligned (v &&& mask) := by
  simp only [Aligned, misaligned, BitVec.getLsbD_and, h0, h1, Bool.and_false, Bool.or_self]

/-- The offset of a table entry of two words. -/
theorem aligned_entry (code : BitVec 4) : Aligned (code.zeroExtend 32 <<< 3) := by
  simp only [Aligned, misaligned, BitVec.getLsbD_shiftLeft]
  rfl

/-- The PSW a gate and an interrupt save (46_operating_system R472, 60_exceptions R534). -/
theorem savedImage_eq (w : Word) : withCodes 1 false 2 w &&& maskPsw = (w &&& 0x03FFFF80) ||| 0x0A := by
  apply BitVec.eq_of_getLsbD_eq
  intro i hi
  rw [BitVec.getLsbD_and, withCodes, getLsbD_merge _ _ _ hi, getLsbD_codes _ _ _ hi]
  interval_cases i <;> simp [maskCodes, maskPsw]

/-- The PSW installed from a table entry (46_operating_system R473). -/
theorem gateImage_eq (old entry : Word) :
    withCodes 7 true 3 (withR (pswR old) (withIpl (pswIpl old) (withPm (pswCm old) entry))) &&& maskPsw =
      gatePsw old entry := by
  apply BitVec.eq_of_getLsbD_eq
  intro i hi
  rw [BitVec.getLsbD_and, withCodes, withR, withIpl, withPm, getLsbD_merge _ _ _ hi, getLsbD_merge _ _ _ hi,
    getLsbD_merge _ _ _ hi, getLsbD_merge _ _ _ hi, getLsbD_codes _ _ _ hi]
  interval_cases i <;> simp [gatePsw, maskCodes, maskR, maskPm, maskIpl, maskPsw, pswR, pswIpl, pswCm]

/-- The PSW of a quick interrupt is that of a gate, at IPL 15 (60_exceptions R534). -/
theorem quickImage_eq (old entry : Word) : quickImage old entry &&& maskPsw = gatePsw old entry ||| 0x0001E000 := by
  apply BitVec.eq_of_getLsbD_eq
  intro i hi
  rw [BitVec.getLsbD_and, quickImage, withCodes, withR, withIpl, withPm, getLsbD_merge _ _ _ hi, getLsbD_merge _ _ _ hi,
    getLsbD_merge _ _ _ hi, getLsbD_merge _ _ _ hi, getLsbD_codes _ _ _ hi]
  interval_cases i <;> simp [gatePsw, maskCodes, maskR, maskPm, maskIpl, maskPsw, pswR, pswCm]

/-- It takes only CM, IPL and R from the PSW before. -/
theorem gatePsw_congr {v w : Word} (h : v &&& 0x0001F900 = w &&& 0x0001F900) (entry : Word) :
    gatePsw v entry = gatePsw w entry := by
  have fields : ∀ x : Word, gatePsw x entry = gatePsw (x &&& 0x0001F900) entry := by
    intro x
    simp only [gatePsw, BitVec.ushiftRight_and_distrib, BitVec.and_assoc]
    rfl
  rw [fields v, h, ← fields w]

/-- The codes are outside those fields. -/
theorem codes_outside (isc : BitVec 4) (tm : Bool) (et : BitVec 2) (w : Word) :
    withCodes isc tm et w &&& maskPsw &&& 0x0001F900 = w &&& 0x0001F900 := by
  rw [withCodes, merge_masked, BitVec.and_or_distrib_right, BitVec.and_assoc w, BitVec.and_assoc (codes isc tm et),
    show maskCodes &&& maskPsw &&& 0x0001F900 = 0#32 by decide,
    show ~~~maskCodes &&& maskPsw &&& 0x0001F900 = 0x0001F900 by decide, BitVec.and_zero, BitVec.or_zero]

/-! ## A gate in a plain state -/

theorem setPsw_masked (v : Word) (s : State) : setPsw (v &&& maskPsw) s = setPsw v s := by
  simp only [setPsw, setReg, if_true, BitVec.and_assoc, BitVec.and_self]

/-- The registers after a context was pushed and a new one installed: m is memory, top the new SP. -/
def entered (m : Memory) (saved pc psw top : Word) (s : State) : State :=
  setReg .sp top (setPsw psw (setReg .pc pc (setPsw saved { s with mem := m })))

theorem onlyRegs_entered (m : Memory) (saved pc psw top : Word) (s : State) :
    OnlyRegs [.pc, .psw, .sp] s (entered m saved pc psw top s) := by
  intro r hr
  simp only [List.mem_cons, List.not_mem_nil, or_false, not_or] at hr
  obtain ⟨hpc, hpsw, hsp⟩ := hr
  rw [entered, reg_setReg_ne hsp, reg_setPsw, if_neg hpsw, reg_setReg_ne hpc, reg_setPsw, if_neg hpsw]
  rfl

theorem sameMachine_entered (m : Memory) (saved pc psw top : Word) (s : State) :
    SameMachine s (entered m saved pc psw top s) :=
  (sameMachine_mem m s).trans ((sameMachine_setReg .psw _ _).trans ((sameMachine_setReg _ _ _).trans
    ((sameMachine_setReg .psw _ _).trans (sameMachine_setReg _ _ _))))

theorem entered_fields (m : Memory) (saved pc psw top : Word) (s : State) :
    let w := entered m saved pc psw top s
    w.mem = m ∧ w.regs.pc = pc ∧ w.regs.psw = psw &&& maskPsw ∧ w.regs.sp = top ∧ w.icache = s.icache ∧
      w.cacheCorrupt = s.cacheCorrupt := by
  intro w
  exact ⟨rfl, by simp [w, entered, pc_setReg, setPsw], by simp [w, entered, psw_setReg], rfl, rfl, rfl⟩

theorem gatePsw_masked (old entry : Word) : gatePsw old entry &&& maskPsw = gatePsw old entry := by
  rw [← gateImage_eq, BitVec.and_assoc, BitVec.and_self]

theorem quickPsw_masked (old entry : Word) :
    (gatePsw old entry ||| 0x0001E000) &&& maskPsw = gatePsw old entry ||| 0x0001E000 := by
  rw [← quickImage_eq, BitVec.and_assoc, BitVec.and_self]

/-- Two words pushed at a, the lower one first. -/
theorem wordsAt_pushed {s w : State} {a : Word} (hm : s.mem.wf = true) (ha : Aligned a) (x y : Word)
    (hw : w.mem = writeData (writeData s.mem .word a x) .word (a + 4) y) : WordsAt a [x, y] s w := by
  have ha4 : Aligned (a + 4) := ha.add (k := 4) rfl
  have hm' := wf_writeData hm .word a x
  have apart : a + 4 ≠ a := by simp
  constructor
  · intro k hk
    simp only [wordAt, hw]
    match k, hk with
    | 0, _ =>
      rw [show a + BitVec.ofNat 32 (4 * 0) = a by simp, readData_writeData_ne hm' ha4 ha apart,
        readData_writeData hm .word a x]
      rfl
    | 1, _ => exact readData_writeData hm' .word (a + 4) y
  · intro z hz
    have := a.isLt
    have := z.isLt
    simp only [List.length_cons, List.length_nil, BitVec.toNat_sub] at hz
    rw [hw, peek_writeData_other hm', peek_writeData_other hm]
    · simp only [covers, Size.bytes, BitVec.toNat_sub]
      omega
    · simp only [covers, Size.bytes, BitVec.toNat_sub, BitVec.toNat_add, four]
      omega

/-- A context pushed and the tables of a gate read, in a plain state; the codes of the PSW pushed are replaced
(46_operating_system R472, R473). -/
theorem pushGate_plain {s : State} (hp : Plain s) (hsp : Aligned s.regs.sp) (pc : Word) {image : Word → Word}
    {isc : BitVec 4} {tm : Bool} {et : BitVec 2} (hi : image s.regs.psw = withCodes isc tm et s.regs.psw)
    {i j : State → Word} {a b saved : Word} {m : Memory} (hs : saved = withCodes isc tm et s.regs.psw &&& maskPsw)
    (hm : m = writeData (writeData s.mem .word s.regs.sp pc) .word (s.regs.sp + 4) saved)
    (hij : i (setPsw saved { s with mem := m }) = a ∧ j (setPsw saved { s with mem := m }) = b)
    (ha : Aligned a) (hb : Aligned b) (ht : Aligned (readData m .word a)) (e : Exn) :
    (do let t ← pushContext pc image s; gateMechanism (i t) (j t) e t) =
      .ok (forceKernel false (entered m saved (readData m .word (readData m .word a + b + 4))
        (gatePsw s.regs.psw (readData m .word (readData m .word a + b))) (s.regs.sp + 8) s)) := by
  generalize hc : setPsw saved { s with mem := m } = c at hij
  have masked : saved &&& maskPsw = saved := by rw [hs, BitVec.and_assoc, BitVec.and_self]
  have push : pushContext pc image s = .ok c := by
    rw [pushContext_plain hp hsp pc image (m := m) (by rw [hm, hi, hs]), hi, ← hc, hs, setPsw_masked]
  have plain : Plain c := by rw [← hc]; exact hp
  have mem : c.mem = m := by rw [← hc]; rfl
  have psw : c.regs.psw = saved := by rw [← hc]; exact masked
  have sp : c.regs.sp = s.regs.sp := by rw [← hc]; rfl
  have tables := gateMechanism_plain plain ha hb (by rw [wordAt, mem]; exact ht) e
  simp only [wordAt, mem, psw, sp] at tables
  have image' : ∀ entry, withCodes 7 true 3 (withR (pswR saved) (withIpl (pswIpl saved) (withPm (pswCm saved) entry))) &&& maskPsw =
      gatePsw s.regs.psw entry := fun entry =>
    (gateImage_eq saved entry).trans (gatePsw_congr (by rw [hs]; exact codes_outside isc tm et s.regs.psw) entry)
  rw [push]
  show gateMechanism (i c) (j c) e c = _
  rw [hij.1, hij.2, tables, ← setPsw_masked, image', ← hc]
  rfl

/-! ## Where a gate is refused -/

/-- Every write at a reaches something. -/
theorem Writable.reaches {s : State} {a : Word} (h : Writable s a) (v : Word) :
    ∃ q, writeReach s .write .word a v = some q := Option.isSome_iff_exists.mp (h v)

/-- States of forced kernel level that differ in registers and memory refuse the same accesses. -/
theorem alike_pushed {s : State} (hb : s.bus = []) (isc : BitVec 4) (tm : Bool) (et : BitVec 2) (m : Memory) :
    Alike (forceKernel true s) (forceKernel true { setCodes isc tm et s with mem := m }) :=
  Alike.forced rfl hb rfl rfl rfl rfl

/-- What a push and the tables of a gate raise where an access is refused: StackFault for the push, e for the tables, SP and
PC as before (46_operating_system R482). -/
theorem pushGate_refused {s : State} (hbus : s.bus = []) (pc : Word) {image : Word → Word} {isc : BitVec 4} {tm : Bool}
    {et : BitVec 2} (hi : image s.regs.psw = withCodes isc tm et s.regs.psw) {i j : State → Word} {a b : Word}
    (hij : ∀ m, i { setCodes isc tm et s with mem := m } = a ∧ j { setCodes isc tm et s with mem := m } = b) (e : Exn) :
    let saved := (setCodes isc tm et s).regs.psw
    let k := forceKernel true s
    let run : Run State := do let t ← pushContext pc image s; gateMechanism (i t) (j t) e t
    let raises := fun (x : Exn) => ∃ t, run = .error (x, t) ∧ t.regs.sp = s.regs.sp ∧ t.regs.pc = s.regs.pc
    (Unwritable s s.regs.sp → run = .error (.stackFault, s)) ∧
      (Writable s s.regs.sp → Unwritable s (s.regs.sp + 4) → raises .stackFault) ∧
      (Writable s s.regs.sp → Writable s (s.regs.sp + 4) → Unreadable k a → raises e) ∧
      ∀ q1 q2 p, writeReach s .write .word s.regs.sp pc = some q1 →
        writeReach s .write .word (s.regs.sp + 4) saved = some q2 → readReach k .operandFetch .word a = some p →
        let m := deposited (deposited s.mem .word q1 pc) .word q2 saved
        Unreadable k (received m .word p + b) ∨ Unreadable k (received m .word p + b + 4) → raises e := by
  intro saved k run raises
  obtain ⟨first, rest⟩ := pushContext_reach hbus pc isc tm et image hi
  have gate : ∀ q1 q2, writeReach s .write .word s.regs.sp pc = some q1 →
      writeReach s .write .word (s.regs.sp + 4) saved = some q2 →
      ∃ c : State, run = gateMechanism a b e c ∧ c.bus = [] ∧ Alike k (forceKernel true c) ∧
        c.mem = deposited (deposited s.mem .word q1 pc) .word q2 saved ∧ c.regs.sp = s.regs.sp ∧ c.regs.pc = s.regs.pc := by
    intro q1 q2 h1 h2
    refine ⟨{ setCodes isc tm et s with mem := deposited (deposited s.mem .word q1 pc) .word q2 saved }, ?_, hbus,
      alike_pushed hbus isc tm et _, rfl, rfl, rfl⟩
    show (pushContext pc image s >>= _) = _
    rw [(rest q1 h1).2 q2 h2]
    show gateMechanism (i _) (j _) e _ = _
    rw [(hij _).1, (hij _).2]
  refine ⟨?first, ?second, ?table, ?entry⟩
  case first =>
    intro h
    show (pushContext pc image s >>= _) = _
    rw [first (h pc)]; rfl
  case second =>
    intro w1 h
    obtain ⟨q1, h1⟩ := w1.reaches pc
    refine ⟨{ setCodes isc tm et s with mem := deposited s.mem .word q1 pc }, ?_, rfl, rfl⟩
    show (pushContext pc image s >>= _) = _
    rw [(rest q1 h1).1 (h _)]; rfl
  case table =>
    intro w1 w2 h
    obtain ⟨q1, h1⟩ := w1.reaches pc
    obtain ⟨q2, h2⟩ := w2.reaches saved
    obtain ⟨c, run_eq, cb, alike, -, sp, pc'⟩ := gate q1 q2 h1 h2
    exact ⟨_, run_eq.trans ((gateMechanism_unreadable cb a b e).1 ((alike.unreadable a).mpr h)), sp, pc'⟩
  case entry =>
    intro q1 q2 p h1 h2 hp m h
    obtain ⟨c, run_eq, cb, alike, cm, sp, pc'⟩ := gate q1 q2 h1 h2
    refine ⟨_, run_eq.trans ((gateMechanism_unreadable cb a b e).2 p ?_ ?_), sp, pc'⟩
    · rw [alike.readReach]; exact hp
    · rw [cm]; exact h.imp (alike.unreadable _).mpr (alike.unreadable _).mpr

/-! ## GATE -/

theorem sameMachine_jumped {s x : State} (h : SameMachine s x) : SameMachine s (jumped x) :=
  ⟨h.1, h.2, h.3, h.4, h.5, h.6, h.7, h.8, h.9, h.10, h.11, h.12⟩

theorem released_eq {s : State} (h : s.kernelForced = false) : forceKernel false s = s := by
  cases s; cases h; rfl

theorem released_of_running {s : State} (hi : s.Inv) (hr : s.phase = .running) : s.kernelForced = false := by
  obtain ⟨-, -, hf, -⟩ := hi
  simpa [forcedOk, hr] using hf

/-- The push and the tables of GATE (46_operating_system R472). -/
def gateEntry (s : State) : Run State := do
  let t ← pushContext (s.regs.pc + 2) (withCodes 1 false 2) s
  gateMechanism (t.regs.r0 &&& 0x7C) (t.regs.r1 &&& 0x7FF8) .gateVector t

theorem exec_gate (s : State) : exec .gate s =
    conclude (checkBounds s >>= fun t => gateEntry t >>= fun w => .ok (complete false (jumped w))) := by
  show execGate s = _
  simp only [execGate, gateEntry, bind_assoc]

theorem exec_gate_refused {s t : State} {x : Exn} (bounds : checkBounds s = .ok s) (h : gateEntry s = .error (x, t)) :
    exec .gate s = .next (fault x t) := by
  rw [exec_gate, bounds]
  show conclude (gateEntry s >>= _) = _
  rw [h]
  rfl

/-- Settles O54. -/
theorem gateResult : Obligations.GateResult := by
  unfold Obligations.GateResult
  refine ⟨fun s hi hr hp hpcb hsp lo hi' => ?enters, fun s hi hr hb => ?refused⟩
  case enters =>
    intro saved m table entry ht
    have released := released_of_running hi hr
    have bounds := checkBounds_plain hp hpcb lo hi'
    rw [show ({ s with kernelForced := false } : State) = s from released_eq released] at bounds
    have run : gateEntry s = _ := pushGate_plain hp hsp (s.regs.pc + 2) (image := withCodes 1 false 2) rfl
      (i := fun t => t.regs.r0 &&& 0x7C) (j := fun t => t.regs.r1 &&& 0x7FF8) (savedImage_eq _).symm rfl ⟨rfl, rfl⟩
      (aligned_masked rfl rfl) (aligned_masked rfl rfl) ht .gateVector
    obtain ⟨mem, pc, psw, sp, icache, corrupt⟩ := entered_fields m.mem saved (wordAt m (entry + 4))
      (gatePsw s.regs.psw (wordAt m entry)) (s.regs.sp + 8) s
    have same := sameMachine_entered m.mem saved (wordAt m (entry + 4)) (gatePsw s.regs.psw (wordAt m entry))
      (s.regs.sp + 8) s
    have regs := onlyRegs_entered m.mem saved (wordAt m (entry + 4)) (gatePsw s.regs.psw (wordAt m entry))
      (s.regs.sp + 8) s
    change gateEntry s = .ok (forceKernel false (entered m.mem saved (wordAt m (entry + 4))
      (gatePsw s.regs.psw (wordAt m entry)) (s.regs.sp + 8) s)) at run
    generalize entered m.mem saved (wordAt m (entry + 4)) (gatePsw s.regs.psw (wordAt m entry)) (s.regs.sp + 8) s = x
      at run mem pc psw sp icache corrupt same regs
    rw [released_eq (same.kernelForced.trans released)] at run
    refine ⟨jumped x, ?_, wordsAt_pushed hi.1 hsp _ _ mem, ⟨pc, rfl, icache, rfl, corrupt⟩,
      psw.trans (gatePsw_masked _ _), sp, regs, sameMachine_jumped same⟩
    rw [exec_gate, bounds]
    show conclude (gateEntry s >>= _) = _
    rw [run]
    rfl
  case refused => 
    intro k saved faults
    have released := released_of_running hi hr
    refine ⟨fun h => ?unread, fun l u hl hu => ⟨fun h => ?outside, fun h1 h2 => ?inside⟩⟩
    case unread =>
      rw [exec_gate, checkBounds_unreadable hb h]
      rfl
    case outside =>
      rw [exec_gate, checkBounds_read hb hl hu, if_pos h]
      rfl
    case inside =>
      have bounds := checkBounds_read hb hl hu
      rw [if_neg (not_or.mpr ⟨BitVec.not_lt.mpr h1, BitVec.not_le.mpr h2⟩), released_eq released] at bounds
      obtain ⟨first, second, table, entry⟩ := pushGate_refused hb (s.regs.pc + 2) (image := withCodes 1 false 2) rfl
        (i := fun t => t.regs.r0 &&& 0x7C) (j := fun t => t.regs.r1 &&& 0x7FF8)
        (a := s.regs.r0 &&& 0x7C) (b := s.regs.r1 &&& 0x7FF8) (fun _ => ⟨rfl, rfl⟩) .gateVector
      have raises : ∀ {x : Exn}, (∃ t, gateEntry s = .error (x, t) ∧ t.regs.sp = s.regs.sp ∧ t.regs.pc = s.regs.pc) →
          faults x := fun ⟨t, run, rest⟩ => ⟨t, exec_gate_refused bounds run, rest⟩
      rw [show (setCodes 1 false 2 s).regs.psw = saved from savedImage_eq _] at entry
      exact ⟨fun h => exec_gate_refused bounds (first h), fun w h => raises (second w h),
        fun w1 w2 h => raises (table w1 w2 h), fun q1 q2 p g1 g2 g3 h => raises (entry q1 q2 p g1 g2 g3 h)⟩

/-! ## Normal exceptions -/

theorem enterNormal_fields (e : Exn) (s : State) :
    (enterNormal e s).regs.pc = s.regs.pc ∧ (enterNormal e s).regs.sp = s.regs.sp ∧
      (enterNormal e s).regs.pcbp = s.regs.pcbp ∧ (enterNormal e s).mem = s.mem ∧ (enterNormal e s).bus = s.bus ∧
      (enterNormal e s).icache = s.icache ∧ (enterNormal e s).cacheCorrupt = s.cacheCorrupt := by
  unfold enterNormal
  split <;> exact ⟨rfl, rfl, rfl, rfl, rfl, rfl, rfl⟩

theorem sameMachine_enterNormal (e : Exn) (s : State) : SameMachine s (enterNormal e s) := by
  unfold enterNormal
  split
  · exact (sameMachine_setReg .psw _ _).trans (sameMachine_setReg .psw _ _)
  · exact sameMachine_setReg .psw _ _

theorem onlyRegs_enterNormal (e : Exn) (s : State) : OnlyRegs [.psw] s (enterNormal e s) := by
  intro r hr
  have hr := List.ne_of_not_mem_cons hr
  unfold enterNormal recordCause
  rw [reg_setPsw, if_neg hr]
  split
  · exact reg_setFlags_ne hr _ _
  · rfl

/-- ISC is the cause's code in the state on-normal finds. -/
theorem pswIsc_recordCause (e : Exn) (s : State) : pswIsc (recordCause e s).regs.psw = e.code := by
  show pswIsc (withIsc e.code s.regs.psw &&& maskPsw) = e.code
  apply BitVec.eq_of_getLsbD_eq
  intro i hi
  have hi' : 3 + i < 32 := by omega
  simp only [pswIsc, BitVec.getLsbD_extractLsb', hi, decide_true, Bool.true_and, BitVec.getLsbD_and, withIsc, withCodes,
    getLsbD_merge _ _ _ hi', getLsbD_codes _ _ _ hi']
  interval_cases i <;> simp [maskCodes, maskPsw]

/-- The PSW on-normal saves: the flags are f, ISC the cause's code, TM 0, ET 3 (60_exceptions R520). -/
theorem trapImage_eq (e : Exn) (f : BitVec 4) (w : Word) :
    withCodes e.code false 3 (withIsc e.code (withFlags f w &&& maskPsw) &&& maskPsw) &&& maskPsw =
      ((w &&& 0x03C3FF80) ||| (f.zeroExtend 32 <<< 18)) ||| (e.code.zeroExtend 32 <<< 3) ||| 3 := by
  apply BitVec.eq_of_getLsbD_eq
  intro i hi
  simp only [BitVec.getLsbD_and, withIsc, withCodes, withFlags, getLsbD_merge _ _ _ hi, getLsbD_codes _ _ _ hi]
  interval_cases i <;> simp [maskCodes, maskFlags, maskPsw]

/-- A normal exception whose sequence fails ripples up (60_exceptions R513). -/
theorem raise_normal_fails {e x : Exn} {s t : State} (he : e.severity = .normal) (hx : x.severity ≠ .normal)
    (h : onNormal (enterNormal e s) = .error (x, t)) : raise e s = raise x t := by
  simp only [raise, he, raiseNormal, h]
  cases hx' : x.severity <;> simp_all

theorem raise_normal_taken {e : Exn} {s t : State} (he : e.severity = .normal)
    (h : onNormal (enterNormal e s) = .ok t) : raise e s = settle t := by
  simp only [raise, he, raiseNormal, h]

theorem withFlags_same {w : Word} (h : w &&& 0xFC000000 = 0) : withFlags (pswFlags w) w &&& maskPsw = w := by
  rw [show withFlags (pswFlags w) w = w from ?_, psw_masked h]
  apply BitVec.eq_of_getLsbD_eq
  intro i hi
  rw [withFlags, getLsbD_merge _ _ _ hi]
  interval_cases i <;> simp [maskFlags, pswFlags]

/-- The flags the saved PSW of an exception holds (60_exceptions R511). -/
def trapFlags (e : Exn) (s : State) : BitVec 4 := if e.scramblesFlags then Config.faultFlags s.free else flags s

theorem enterNormal_psw (e : Exn) {s : State} (h : s.regs.psw &&& 0xFC000000 = 0) :
    (enterNormal e s).regs.psw = withIsc e.code (withFlags (trapFlags e s) s.regs.psw &&& maskPsw) &&& maskPsw := by
  unfold enterNormal trapFlags
  split
  · rfl
  · rw [flags, withFlags_same h]; rfl

/-- Neither the cause nor the flags are fields a table entry leaves as they are. -/
theorem trap_outside (isc : BitVec 4) (f : BitVec 4) (w : Word) :
    withIsc isc (withFlags f w &&& maskPsw) &&& maskPsw &&& 0x0001F900 = w &&& 0x0001F900 := by
  rw [withIsc, codes_outside, withFlags, merge_masked, BitVec.and_or_distrib_right, BitVec.and_assoc w,
    BitVec.and_assoc (BitVec.zeroExtend 32 f <<< 18), show maskFlags &&& maskPsw &&& 0x0001F900 = 0#32 by decide,
    show ~~~maskFlags &&& maskPsw &&& 0x0001F900 = 0x0001F900 by decide, BitVec.and_zero, BitVec.or_zero]

/-- The push and the tables of on-normal (60_exceptions R520). -/
def trapEntry (s : State) : Run State := do
  let t ← pushContext s.regs.pc (fun w => withCodes (pswIsc w) false 3 w) s
  gateMechanism 0 ((pswIsc t.regs.psw).zeroExtend 32 <<< 3) .resetGateVector t

theorem onNormal_eq (s : State) : onNormal s = checkBounds s >>= trapEntry := rfl

theorem SameMachine.refl (s : State) : SameMachine s s :=
  ⟨rfl, rfl, rfl, rfl, rfl, rfl, rfl, rfl, rfl, rfl, rfl, rfl⟩

theorem SameMachine.forced {s w : State} (h : SameMachine s w) (k : Bool) :
    SameMachine { s with kernelForced := k } { w with kernelForced := k } :=
  ⟨h.1, rfl, h.3, h.4, h.5, h.6, h.7, h.8, h.9, h.10, h.11, h.12⟩

theorem sameMachine_settle {s x : State} {p : Phase} {k : Bool}
    (h : SameMachine { s with phase := p, kernelForced := k } x) :
    SameMachine { s with phase := .running, kernelForced := false, flagsAtStart := flags (settle x) } (settle x) :=
  ⟨h.1, rfl, rfl, h.4, h.5, rfl, h.7, h.8, h.9, h.10, h.11, h.12⟩

theorem OnlyRegs.trans {rs qs : List Reg} {s t w : State} (h : OnlyRegs rs s t) (g : OnlyRegs qs t w) :
    OnlyRegs (rs ++ qs) s w := fun r hr => by
  rw [List.mem_append, not_or] at hr
  exact (g r hr.2).trans (h r hr.1)

theorem OnlyRegs.mono {rs qs : List Reg} {s w : State} (h : OnlyRegs rs s w) (hq : ∀ r ∈ rs, r ∈ qs) : OnlyRegs qs s w :=
  fun r hr => h r fun g => hr (hq r g)

theorem pswIsc_codes (isc : BitVec 4) (tm : Bool) (et : BitVec 2) (w : Word) :
    pswIsc (withCodes isc tm et w &&& maskPsw) = isc := by
  apply BitVec.eq_of_getLsbD_eq
  intro i hi
  have hi' : 3 + i < 32 := by omega
  simp only [pswIsc, BitVec.getLsbD_extractLsb', hi, decide_true, Bool.true_and, BitVec.getLsbD_and, withCodes,
    getLsbD_merge _ _ _ hi', getLsbD_codes _ _ _ hi']
  interval_cases i <;> simp [maskCodes, maskPsw]

/-- The state at the end of a sequence that pushed a context at SP and installed a new one. -/
theorem entered_settled {s u : State} {m : Memory} {saved pc : Word} {p : Phase} {k : Bool} (hw : s.mem.wf = true)
    (hsp : Aligned s.regs.sp) (hm : m = writeData (writeData s.mem .word s.regs.sp pc) .word (s.regs.sp + 4) saved)
    (hu : SameMachine { s with phase := p, kernelForced := k } u) (hr : OnlyRegs [.psw] s u)
    (hc : u.icache = s.icache ∧ u.cacheCorrupt = s.cacheCorrupt) (target psw : Word) :
    let w := settle (entered m saved target psw (s.regs.sp + 8) u)
    WordsAt s.regs.sp [pc, saved] s w ∧ GoesTo target s w ∧ w.regs.psw = psw &&& maskPsw ∧
      w.regs.sp = s.regs.sp + 8 ∧ OnlyRegs [.pc, .psw, .sp] s w ∧
      SameMachine { s with phase := .running, kernelForced := false, flagsAtStart := flags w } w := by
  generalize s.regs.sp + 8 = top
  obtain ⟨xmem, xpc, xpsw, xsp, xicache, xcorrupt⟩ := entered_fields m saved target psw top u
  have xregs := hr.trans (onlyRegs_entered m saved target psw top u)
  have xsame := hu.trans (sameMachine_entered m saved target psw top u)
  generalize entered m saved target psw top u = x at *
  exact ⟨wordsAt_pushed hw hsp _ _ (xmem.trans hm), ⟨xpc, rfl, xicache.trans hc.1, rfl, xcorrupt.trans hc.2⟩, xpsw, xsp,
    xregs.mono (by decide), sameMachine_settle xsame⟩

/-- Settles O21. -/
theorem normalExceptionEntry : Obligations.NormalExceptionEntry := by
  unfold Obligations.NormalExceptionEntry
  refine ⟨fun e s f he hw hpsw hp hpcb hsp lo hi hf => ?enters, fun e s he hb => ?refused⟩
  case enters =>
    intro saved m entry ht
    obtain ⟨npc, nsp, npcbp, nmem, nbus, nicache, ncorrupt⟩ := enterNormal_fields e s
    have nsame := sameMachine_enterNormal e s
    have nregs := onlyRegs_enterNormal e s
    have nimage := enterNormal_psw e hpsw
    have nisc : pswIsc (enterNormal e s).regs.psw = e.code := pswIsc_recordCause e _
    rw [show trapFlags e s = f from hf.symm] at nimage
    have outside : (enterNormal e s).regs.psw &&& 0x0001F900 = s.regs.psw &&& 0x0001F900 := by
      rw [nimage]; exact trap_outside _ _ _
    have image : saved = withCodes e.code false 3 (enterNormal e s).regs.psw &&& maskPsw := by
      rw [nimage]; exact (trapImage_eq e f _).symm
    have nplain : Plain (enterNormal e s) :=
      ⟨nsame.virtualMode.trans hp.1, (congrArg Inputs.replies nsame.inputs).trans hp.2.1, nbus.trans hp.2.2⟩
    have raised : ∀ {t}, onNormal (enterNormal e s) = .ok t → raise e s = settle t := raise_normal_taken he
    generalize enterNormal e s = n at *
    have bounds := checkBounds_plain nplain (npcbp ▸ hpcb) (by rw [npcbp, nsp, wordAt, nmem]; exact lo)
      (by rw [npcbp, nsp, wordAt, nmem]; exact hi)
    have run := pushGate_plain (s := { n with kernelForced := false }) nplain (nsp ▸ hsp) n.regs.pc
      (image := fun w => withCodes (pswIsc w) false 3 w) (isc := e.code) (tm := false) (et := 3) (by rw [nisc])
      (i := fun _ => 0) (j := fun t => (pswIsc t.regs.psw).zeroExtend 32 <<< 3) (m := m.mem) image
      (by show m.mem = writeData (writeData n.mem .word n.regs.sp n.regs.pc) .word (n.regs.sp + 4) saved
          rw [nmem, nsp, npc])
      (a := 0) (b := e.code.zeroExtend 32 <<< 3)
      ⟨rfl, by rw [setPsw_psw, image, BitVec.and_assoc, BitVec.and_self, pswIsc_codes]⟩ rfl (aligned_entry e.code) ht
      .resetGateVector
    change trapEntry { n with kernelForced := false } = _ at run
    rw [show ({ n with kernelForced := false } : State).regs.sp = s.regs.sp from nsp,
      show gatePsw ({ n with kernelForced := false } : State).regs.psw = gatePsw s.regs.psw from
        funext (gatePsw_congr outside)] at run
    have taken : onNormal n = .ok (forceKernel false (entered m.mem saved (wordAt m (entry + 4))
        (gatePsw s.regs.psw (wordAt m entry)) (s.regs.sp + 8) { n with kernelForced := false })) := by
      rw [onNormal_eq, bounds]; exact run
    obtain ⟨words, goes, psw, sp, regs, same⟩ := entered_settled hw hsp (m := m.mem) (saved := saved) rfl
      (nsame.forced false) nregs ⟨nicache, ncorrupt⟩ (wordAt m (entry + 4)) (gatePsw s.regs.psw (wordAt m entry))
    exact ⟨_, raised taken, words, goes, psw.trans (gatePsw_masked _ _), sp, regs, same⟩
  case refused =>
    intro k u saved raises
    obtain ⟨npc, nsp, npcbp, nmem, nbus, -, -⟩ := enterNormal_fields e s
    have nisc : pswIsc (enterNormal e s).regs.psw = e.code := pswIsc_recordCause e _
    have place : ∀ j, pcbWord (enterNormal e s) j = pcbWord s j := fun j => by rw [pcbWord, npcbp]; rfl
    have fails : ∀ {x : Exn} {t : State}, x.severity ≠ .normal → onNormal (enterNormal e s) = .error (x, t) →
        raise e s = raise x t := fun hx h => raise_normal_fails he hx h
    have kbus : (enterNormal e s).bus = [] := nbus.trans hb
    refine ⟨fun h => ?unread, fun l h hl hh h1 h2 => ?inside⟩
    case unread =>
      refine fails (by decide) ?_
      rw [onNormal_eq, checkBounds_unreadable kbus (by rw [place, place]; exact h)]
      rfl
    case inside =>
      have bounds := checkBounds_read kbus (by rw [place]; exact hl) (by rw [place]; exact hh)
      rw [nsp, if_neg (not_or.mpr ⟨BitVec.not_lt.mpr h1, BitVec.not_le.mpr h2⟩)] at bounds
      change checkBounds (enterNormal e s) = .ok u at bounds
      have usp : u.regs.sp = s.regs.sp := nsp
      have upc : u.regs.pc = s.regs.pc := npc
      have umem : u.mem = s.mem := nmem
      have uisc : pswIsc u.regs.psw = e.code := nisc
      obtain ⟨first, second, table, entry⟩ := pushGate_refused (s := u) kbus u.regs.pc
        (image := fun w => withCodes (pswIsc w) false 3 w) (isc := e.code) (tm := false) (et := 3) (by rw [uisc])
        (i := fun _ => 0) (j := fun t => (pswIsc t.regs.psw).zeroExtend 32 <<< 3) (a := 0)
        (b := e.code.zeroExtend 32 <<< 3)
        (fun m => ⟨rfl, congrArg (fun c => BitVec.zeroExtend 32 c <<< 3) (pswIsc_codes e.code false 3 u.regs.psw)⟩)
        .resetGateVector
      change Unwritable u _ → trapEntry u = _ at first
      rw [usp] at first second table entry
      rw [upc, umem] at entry
      have onward : ∀ {x : Exn} {t : State}, x.severity ≠ .normal → trapEntry u = .error (x, t) → raise e s = raise x t :=
        fun hx h => fails hx (by rw [onNormal_eq, bounds]; exact h)
      refine ⟨fun h => onward (by decide) (first h), fun w h => ?_, fun w1 w2 h => ?_, fun q1 q2 p g1 g2 g3 h => ?_⟩
      · obtain ⟨t, run, sp, pc⟩ := second w h
        exact ⟨t, onward (by decide) run, sp, pc.trans upc⟩
      · obtain ⟨t, run, sp, pc⟩ := table w1 w2 h
        exact ⟨t, onward (by decide) run, sp, pc.trans upc⟩
      · obtain ⟨t, run, -⟩ := entry q1 q2 p g1 g2 g3 h
        exact ⟨t, onward (by decide) (by rw [trapEntry, upc]; exact run)⟩

/-! ## The quick interrupt -/

/-- The interrupt-ID where no device answers on the bus (60_exceptions R532). -/
def vectorId (s : State) : Word :=
  if s.inputs.nmint then 0
  else if s.inputs.avec then ((if s.inputs.intopt then 0 else 16) ||| (~~~s.inputs.ipl).zeroExtend 32)
  else s.inputs.intId.zeroExtend 32

theorem interruptId_plain {s : State} (hp : Plain s) : interruptId s = .ok (vectorId s, s) := by
  obtain ⟨-, hr, hb⟩ := hp
  have level : ∀ b : Bool, ∀ l : BitVec 4, (BitVec.ofBool (!b) ++ l).zeroExtend 32 =
      ((if b then 0 else 16) ||| l.zeroExtend 32 : Word) := by decide
  have silent : reply s .interruptAck .byte .read (acknowledgeAddress s) 0 = none := by simp [reply, hr]
  cases hn : s.inputs.nmint with
  | true => simp only [interruptId, vectorId, hn, if_true, busTurn_quiet hb, bind, Except.bind]
  | false =>
    cases ha : s.inputs.avec with
    | true =>
      simp only [interruptId, vectorId, hn, ha, Bool.false_eq_true, if_true, if_false, busTurn_quiet hb, bind, Except.bind,
        requestLevel, level]
    | false =>
      simp only [interruptId, vectorId, hn, ha, Bool.false_eq_true, if_false, acknowledge, busTurn_quiet hb, bind,
        Except.bind, silent]

theorem aligned_vector (id : Word) : Aligned (0x48C + id * 8) := by
  have := id.isLt
  rw [aligned_iff, BitVec.toNat_add, BitVec.toNat_mul, show BitVec.toNat (0x48C : Word) = 0x48C from rfl,
    show BitVec.toNat (8 : Word) = 8 from rfl]
  omega

/-- The quick interrupt in a plain state (60_exceptions R534). -/
theorem quickInterrupt_plain {s : State} (hp : Plain s) (hsp : Aligned s.regs.sp) (id : Word) {saved : Word} {m : Memory}
    (hs : saved = withCodes 1 false 2 s.regs.psw &&& maskPsw)
    (hm : m = writeData (writeData s.mem .word s.regs.sp s.regs.pc) .word (s.regs.sp + 4) saved) :
    quickInterrupt id s = .ok (settle (entered m saved (readData m .word (0x48C + id * 8 + 4))
      (gatePsw s.regs.psw (readData m .word (0x48C + id * 8)) ||| 0x0001E000) (s.regs.sp + 8) s)) := by
  generalize hc : setPsw saved { s with mem := m } = c
  have masked : saved &&& maskPsw = saved := by rw [hs, BitVec.and_assoc, BitVec.and_self]
  have push : pushContext s.regs.pc (withCodes 1 false 2) s = .ok c := by
    rw [pushContext_plain hp hsp s.regs.pc _ (m := m) (by rw [hm, hs]), ← hc, hs, setPsw_masked]
  have plain : Plain (forceKernel true c) := by rw [← hc]; exact hp
  have mem : c.mem = m := by rw [← hc]; rfl
  have psw : c.regs.psw = saved := by rw [← hc]; exact masked
  have sp : c.regs.sp = s.regs.sp := by rw [← hc]; rfl
  have first := load_plain plain (aligned_vector id) .gateVector
  have second := load_plain plain ((aligned_vector id).add (k := 4) rfl) .gateVector
  simp only [wordAt, forceKernel_mem, mem] at first second
  have image : ∀ entry, quickImage saved entry &&& maskPsw = gatePsw s.regs.psw entry ||| 0x0001E000 := fun entry =>
    (quickImage_eq saved entry).trans (congrArg (· ||| 0x0001E000)
      (gatePsw_congr (by rw [hs]; exact codes_outside 1 false 2 s.regs.psw) entry))
  simp only [quickInterrupt, push, bind, Except.bind, first, second, forceKernel_regs, psw]
  rw [← setPsw_masked, image, ← sp, ← hc]
  rfl

/-- A push that is granted leaves SP, and which accesses kernel level is refused. -/
theorem pushContext_granted {s : State} (hb : s.bus = []) (pc : Word) (isc : BitVec 4) (tm : Bool) (et : BitVec 2)
    (image : Word → Word) (hi : image s.regs.psw = withCodes isc tm et s.regs.psw) (w1 : Writable s s.regs.sp)
    (w2 : Writable s (s.regs.sp + 4)) :
    ∃ c, pushContext pc image s = .ok c ∧ Alike (forceKernel true s) (forceKernel true c) ∧ c.regs.sp = s.regs.sp := by
  obtain ⟨q1, h1⟩ := w1.reaches pc
  obtain ⟨q2, h2⟩ := w2.reaches (setCodes isc tm et s).regs.psw
  exact ⟨_, ((pushContext_reach hb pc isc tm et image hi).2 q1 h1).2 q2 h2, alike_pushed hb isc tm et _, rfl⟩

/-- What the quick interrupt raises where an access is refused: StackFault for the push, GateVector for the table, SP as
before (46_operating_system R482). -/
theorem quickInterrupt_refused {s : State} (hbus : s.bus = []) (id : Word) :
    let k := forceKernel true s
    let raises := fun (x : Exn) => ∃ t, quickInterrupt id s = .error (x, t) ∧ t.regs.sp = s.regs.sp
    (Unwritable s s.regs.sp → quickInterrupt id s = .error (.stackFault, s)) ∧
      (Writable s s.regs.sp → Unwritable s (s.regs.sp + 4) → raises .stackFault) ∧
      (Writable s s.regs.sp → Writable s (s.regs.sp + 4) →
        Unreadable k (0x48C + id * 8) ∨ Unreadable k (0x48C + id * 8 + 4) → raises .gateVector) := by
  intro k raises
  obtain ⟨first, rest⟩ := pushContext_reach hbus s.regs.pc 1 false 2 (withCodes 1 false 2) rfl
  refine ⟨fun h => ?_, fun w1 h => ?_, fun w1 w2 h => ?_⟩
  · simp only [quickInterrupt, first (h _), bind, Except.bind]
  · obtain ⟨q1, h1⟩ := w1.reaches s.regs.pc
    refine ⟨{ setCodes 1 false 2 s with mem := deposited s.mem .word q1 s.regs.pc }, ?_, rfl⟩
    simp only [quickInterrupt, (rest q1 h1).1 (h _), bind, Except.bind]
  · obtain ⟨c, push, alike, sp⟩ := pushContext_granted hbus s.regs.pc 1 false 2 (withCodes 1 false 2) rfl w1 w2
    obtain ⟨-, l1⟩ | ⟨g1, p1, -, l1⟩ := alike.load .gateVector (0x48C + id * 8)
    · exact ⟨forceKernel true c, by simp only [quickInterrupt, push, bind, Except.bind, l1], sp⟩
    obtain ⟨-, l2⟩ | ⟨g2, -⟩ := alike.load .gateVector (0x48C + id * 8 + 4)
    · exact ⟨forceKernel true c, by simp only [quickInterrupt, push, bind, Except.bind, l1, l2], sp⟩
    · exact absurd h (not_or.mpr ⟨g1, g2⟩)

theorem takeInterrupt_ends {s t : State} (h : onInterrupt { s with phase := .running } = .ok t) : takeInterrupt s = t := by
  rw [takeInterrupt, h]

theorem takeInterrupt_fails {s t : State} {e : Exn} (h : onInterrupt { s with phase := .running } = .error (e, t)) :
    takeInterrupt s = raise e t := by
  rw [takeInterrupt, h]

/-- The sequence QIE selects (60_exceptions R532). -/
theorem onInterrupt_id {s t : State} {id : Word} (h : interruptId s = .ok (id, t)) :
    onInterrupt s = if pswQie t.regs.psw then quickInterrupt id t else fullInterrupt id t := by
  simp only [onInterrupt, h, bind, Except.bind]

/-- Settles O25. -/
theorem quickInterruptEntry : Obligations.QuickInterruptEntry := by
  unfold Obligations.QuickInterruptEntry
  refine ⟨fun s hi hp hsp hq => ?enters, fun s hb => ⟨fun hn ha hf => ?acknowledge, fun id hid hq => ?refused⟩⟩
  case enters =>
    intro level id saved m entry
    have number : interruptId { s with phase := .running } = .ok (id, { s with phase := .running }) :=
      interruptId_plain (s := { s with phase := .running }) hp
    have run : onInterrupt { s with phase := .running } = _ := (onInterrupt_id number).trans ((if_pos hq).trans
      (quickInterrupt_plain (s := { s with phase := .running }) hp hsp id (savedImage_eq _).symm rfl))
    obtain ⟨words, goes, psw, sp, regs, same⟩ := entered_settled (u := { s with phase := .running }) (p := .running)
      (k := s.kernelForced) hi.1 hsp (m := m.mem) (saved := saved) rfl (.refl _) (fun _ _ => rfl) ⟨rfl, rfl⟩
      (wordAt m (entry + 4)) (gatePsw s.regs.psw (wordAt m entry) ||| 0x0001E000)
    exact ⟨_, takeInterrupt_ends run, words, goes, psw.trans (quickPsw_masked _ _), sp, regs, same⟩
  case acknowledge =>
    refine takeInterrupt_fails ?_
    have silent : reply { s with phase := .running } .interruptAck .byte .read (acknowledgeAddress s) 0 = some .fault := hf
    simp only [onInterrupt, interruptId, hn, ha, Bool.false_eq_true, if_false, acknowledge,
      busTurn_quiet (s := { s with phase := .running }) hb, bind, Except.bind]
    rw [show acknowledgeAddress { s with phase := .running } = acknowledgeAddress s from rfl, silent]
  case refused =>
    intro raises
    obtain ⟨first, second, table⟩ := quickInterrupt_refused (s := { s with phase := .running }) hb id
    have fails : ∀ {x : Exn} {t : State}, quickInterrupt id { s with phase := .running } = .error (x, t) →
        takeInterrupt s = raise x t := fun h =>
      takeInterrupt_fails ((onInterrupt_id hid).trans ((if_pos hq).trans h))
    refine ⟨fun h => fails (first h), fun w h => ?_, fun w1 w2 h => ?_⟩
    · obtain ⟨t, run, sp⟩ := second w h
      exact ⟨t, fails run, sp⟩
    · obtain ⟨t, run, sp⟩ := table w1 w2 h
      exact ⟨t, fails run, sp⟩

end Sys2Proof.Machine
end

section
/-! The obligations on process switches: the process and the stack exceptions, the full interrupt, CALLPS, RETPS and the
reset sequence (spec/46_operating_system.md R476 to R480; spec/60_exceptions.md R521 to R523, R533; spec/10_state.md R67). -/

namespace Sys2Proof.Machine

/-! ## The PSW of a process -/

/-- The PSW after XSWITCH_TWO from an image, R and ISC from the PSW before (46_operating_system R477). -/
def switchedPsw (image old : Word) : Word := clearI (loadImage image old &&& maskPsw) &&& maskPsw

theorem getLsbD_switchedPsw (image old : Word) {i : Nat} (hi : i < 32) :
    (switchedPsw image old).getLsbD i =
      if i < 2 then old.getLsbD i else if i = 2 then false else if i < 7 then old.getLsbD i else if i = 7 then false
      else if i = 8 then old.getLsbD i else if i < 26 then image.getLsbD i else false := by
  rw [switchedPsw, BitVec.getLsbD_and, clearI, getLsbD_merge _ _ _ hi, BitVec.getLsbD_and, loadImage, withCodes, withR,
    getLsbD_merge _ _ _ hi, getLsbD_merge _ _ _ hi, getLsbD_codes _ _ _ hi]
  interval_cases i <;> simp [maskCodes, maskR, maskI, maskPsw, pswEt, pswIsc, pswR]

/-- ISC and R stay; they are then replaced or kept with TM 0 and ET 3 (46_operating_system R477, 60_exceptions R521 to
R523). -/
theorem processPsw_of_switched (isc : BitVec 4) (image old : Word) :
    withCodes isc false 3 (switchedPsw image old) &&& maskPsw =
      processPsw (pswR old) ((isc.zeroExtend 32 <<< 3) ||| 3) image := by
  have place : ∀ r : Bool, (if r then 0x00000100 else 0 : Word) = (BitVec.ofBool r).zeroExtend 32 <<< 8 := by decide
  apply BitVec.eq_of_getLsbD_eq
  intro i hi
  rw [BitVec.getLsbD_and, withCodes, getLsbD_merge _ _ _ hi, getLsbD_codes _ _ _ hi, getLsbD_switchedPsw _ _ hi,
    processPsw, place]
  interval_cases i <;> simp [maskCodes, maskPsw, pswR]

theorem pswIsc_switched (image old : Word) : pswIsc (switchedPsw image old) = pswIsc old := by
  apply BitVec.eq_of_getLsbD_eq
  intro i hi
  have hi' : 3 + i < 32 := by omega
  simp only [pswIsc, BitVec.getLsbD_extractLsb', hi, decide_true, Bool.true_and, getLsbD_switchedPsw _ _ hi']
  interval_cases i <;> simp

/-! ## The push of the PCBP -/

/-- The state after PCBP was pushed on the interrupt stack (10_state R56). -/
def pcbpPushed (s : State) : State :=
  setReg .isp (s.regs.isp + 4) { s with mem := writeData s.mem .word s.regs.isp s.regs.pcbp }

theorem onlyRegs_pcbpPushed (s : State) : OnlyRegs [.isp] s (pcbpPushed s) := fun _ hr =>
  reg_setReg_ne (List.ne_of_not_mem_cons hr) _ _

theorem sameMachine_pcbpPushed (s : State) : SameMachine s (pcbpPushed s) :=
  (sameMachine_mem _ s).trans (sameMachine_setReg _ _ _)

/-- Another word reads as before. -/
theorem wordAt_pcbpPushed {s : State} (hw : s.mem.wf = true) (hi : Aligned s.regs.isp) {b : Word} (hb : Aligned b)
    (hn : s.regs.isp ≠ b) : wordAt (pcbpPushed s) b = wordAt s b :=
  readData_writeData_ne hw hi hb hn _

/-- Reading a word as data in a plain state. -/
theorem memRead_word {s : State} (hp : Plain s) {a : Word} (ha : Aligned a) :
    memRead s .operandFetch .word a = some (wordAt s a) := memRead_plain hp ha

theorem onlyRegs_setCodes (isc : BitVec 4) (tm : Bool) (et : BitVec 2) (s : State) :
    OnlyRegs [.psw] s (setCodes isc tm et s) := fun _ hr => by
  rw [setCodes, reg_setPsw, if_neg (List.ne_of_not_mem_cons hr)]

/-- A row of one word. -/
theorem wordsAt_one {s w : State} {a v : Word} (hm : s.mem.wf = true) (hw : w.mem = writeData s.mem .word a v) :
    WordsAt a [v] s w := by
  constructor
  · intro k hk
    obtain rfl : k = 0 := by simpa using hk
    simp only [wordAt, hw, Nat.mul_zero, BitVec.ofNat_eq_ofNat, BitVec.add_zero]
    exact readData_writeData hm .word a v
  · intro x hx
    rw [hw, peek_writeData_other hm]
    exact hx

/-! ## The process exceptions -/

theorem raise_process_taken {e : Exn} {s t : State} (he : e.severity = .process)
    (h : onProcess (recordCause e s) = .ok t) : raise e s = settle t := by
  simp only [raise, he, raiseProcess, h]

/-- One whose sequence fails ripples up (60_exceptions R513). -/
theorem raise_process_fails {e x : Exn} {s t : State} (he : e.severity = .process) (hx : x.severity = .reset)
    (h : onProcess (recordCause e s) = .error (x, t)) : raise e s = raise x t := by
  simp only [raise, he, hx, raiseProcess, h]

/-- The sequence of a process exception in a plain state (60_exceptions R522). -/
theorem onProcess_plain {s : State} (hp : Plain s) (hi : Aligned s.regs.isp) {w : State}
    (h : xswitchTwo (wordAt s 0x84) .resetNewPcb (pcbpPushed (forceKernel true s)) = .ok w) :
    onProcess s = .ok (forceKernel false (setCodes (pswIsc w.regs.psw) false 3 w)) := by
  have table : load .systemData 0x84 (forceKernel true s) = .ok (wordAt s 0x84, forceKernel true s) :=
    load_plain (s := forceKernel true s) (a := 0x84) hp rfl _
  have push : pushPcbp (forceKernel true s) = .ok (pcbpPushed (forceKernel true s)) :=
    pushPcbp_plain (s := forceKernel true s) hp hi
  simp only [onProcess, table, push, bind, Except.bind, h]

/-- What it raises where an access is refused (46_operating_system R482). -/
theorem onProcess_refused {s : State} (hb : s.bus = []) :
    let k := forceKernel true s
    (Unreadable k 0x84 → onProcess s = .error (.systemData, k)) ∧
      ∀ a, memRead k .operandFetch .word 0x84 = some a →
        (Unwritable k s.regs.isp → onProcess s = .error (.interruptStack, k)) ∧
        (Writable k s.regs.isp → ContextUnreadable a k → ∃ t, onProcess s = .error (.resetNewPcb, t)) := by
  intro k
  have alike : Alike k k := .refl hb
  refine ⟨fun h => ?_, fun a ha => ?_⟩
  · have table : load .systemData 0x84 k = .error (.systemData, k) := loadAs_fails (s := k) hb h _
    simp only [onProcess, bind, Except.bind]
    rw [table]
  have table : load .systemData 0x84 k = .ok (a, k) := loadAs_quiet (s := k) hb ha _
  have onward : onProcess s = pushPcbp k >>= fun t => xswitchTwo a .resetNewPcb t >>= fun w =>
      .ok (forceKernel false (setCodes (pswIsc w.regs.psw) false 3 w)) := by
    simp only [onProcess, bind, Except.bind]
    rw [table]
  rw [onward]
  obtain ⟨push, hn⟩ | ⟨m, push, hn⟩ := pushPcbp_reach alike <;> rw [push]
  · exact ⟨fun _ => rfl, fun h => absurd h hn⟩
  · refine ⟨fun h => absurd h hn, fun _ h => ?_⟩
    obtain ⟨u, run, -⟩ | ⟨_, _, -, -, -, hc, -⟩ := xswitchTwo_reach (s := k)
      (w := setReg .isp (k.regs.isp + 4) { k with mem := m }) (.forced rfl hb rfl rfl rfl rfl) rfl a .resetNewPcb
    · exact ⟨u, by show (xswitchTwo a .resetNewPcb _ >>= _) = _; rw [run]; rfl⟩
    · exact absurd h hc

theorem pswR_recordCause (e : Exn) (s : State) : pswR (recordCause e s).regs.psw = pswR s.regs.psw := by
  show pswR (withIsc e.code s.regs.psw &&& maskPsw) = _
  rw [pswR, pswR, BitVec.getLsbD_and, withIsc, withCodes, getLsbD_merge _ _ _ (by decide)]
  simp [maskCodes, maskPsw]

/-- Settles O23. -/
theorem processExceptionEntry : Obligations.ProcessExceptionEntry := by
  unfold Obligations.ProcessExceptionEntry
  refine ⟨fun e s he hw hpsw hp hisp => ?enters, fun e s he hb => ?refused⟩
  case enters =>
    intro a image ha h0 h4 h8
    have nisc : pswIsc (recordCause e s).regs.psw = e.code := pswIsc_recordCause e s
    have nr : pswR (recordCause e s).regs.psw = pswR s.regs.psw := pswR_recordCause e s
    have nregs : OnlyRegs [.psw] s (recordCause e s) := onlyRegs_setCodes _ _ _ s
    have nsame : SameMachine s (recordCause e s) := sameMachine_setReg .psw _ _
    have word : ∀ b, Aligned b → s.regs.isp ≠ b → wordAt (pcbpPushed (forceKernel true (recordCause e s))) b = wordAt s b :=
      fun b hb hn => wordAt_pcbpPushed (s := forceKernel true (recordCause e s)) hw hisp hb hn
    obtain ⟨w, run, psw, pc, sp, pcbp, regs, mem, discont, flushed, same⟩ :=
      xswitchTwo_plain (s := pcbpPushed (forceKernel true (recordCause e s))) hp ha .resetNewPcb
    rw [word a ha h0] at psw pcbp flushed
    rw [word _ (ha.add (k := 4) rfl) h4] at pc
    rw [word _ (ha.add (k := 8) rfl) h8] at sp
    have taken := raise_process_taken he (onProcess_plain (s := recordCause e s) hp hisp run)
    have wregs := nregs.trans ((onlyRegs_pcbpPushed (forceKernel true (recordCause e s))).trans regs)
    change w.regs.psw = switchedPsw image (recordCause e s).regs.psw at psw
    refine ⟨_, taken, wordsAt_one hw mem, ?_, pc, sp, pcbp, regs .isp (by decide), ?_, flushed, rfl, rfl,
      sameMachine_settle (x := setCodes (pswIsc w.regs.psw) false 3 w) (((nsame.forced true).trans (sameMachine_pcbpPushed _)).trans (same.trans
        (sameMachine_setReg .psw _ _)))⟩
    · show withCodes (pswIsc w.regs.psw) false 3 w.regs.psw &&& maskPsw = _
      rw [psw, pswIsc_switched, processPsw_of_switched, nisc, nr]
    · exact (wregs.trans (onlyRegs_setCodes _ _ _ w)).mono (by decide)
  case refused =>
    intro k
    obtain ⟨first, rest⟩ := onProcess_refused (s := recordCause e s) hb
    refine ⟨fun h => raise_process_fails he rfl (first h), fun a ha => ⟨fun h => ?_, fun w h => ?_⟩⟩
    · exact raise_process_fails he rfl ((rest a ha).1 h)
    · obtain ⟨t, run⟩ := (rest a ha).2 w h
      exact ⟨t, raise_process_fails he rfl run⟩

/-! ## The reset sequence -/

/-- The state in which the reset sequence makes its first access (60_exceptions R523). -/
def resetStart (external : Bool) (s : State) : State :=
  { forceKernel true (if external then setPsw (withR false s.regs.psw) (flushCache s) else flushCache s) with
    virtualMode := false }

theorem onReset_eq (external : Bool) (s : State) :
    onReset external s = load .systemData 0x80 (resetStart external s) >>= fun p =>
      xswitchTwo p.1 .resetNewPcb p.2 >>= fun w => .ok (forceKernel false (setCodes (pswIsc w.regs.psw) false 3 w)) := by
  cases external <;> rfl

theorem resetStart_fields (external : Bool) (s : State) :
    (resetStart external s).mem = s.mem ∧ (resetStart external s).bus = s.bus ∧
      (resetStart external s).inputs = s.inputs ∧ (resetStart external s).icache = [] ∧
      (resetStart external s).cacheCorrupt = false ∧ (resetStart external s).virtualMode = false ∧
      (resetStart external s).kernelForced = true := by
  cases external <;> exact ⟨rfl, rfl, rfl, rfl, rfl, rfl, rfl⟩

theorem pswR_withR (r : Bool) (w : Word) : pswR (withR r w &&& maskPsw) = r := by
  rw [pswR, BitVec.getLsbD_and, withR, getLsbD_merge _ _ _ (by decide)]
  cases r <;> simp [maskR, maskPsw]

theorem pswIsc_withR (r : Bool) (w : Word) : pswIsc (withR r w &&& maskPsw) = pswIsc w := by
  apply BitVec.eq_of_getLsbD_eq
  intro i hi
  have hi' : 3 + i < 32 := by omega
  simp only [pswIsc, BitVec.getLsbD_extractLsb', hi, decide_true, Bool.true_and, BitVec.getLsbD_and, withR,
    getLsbD_merge _ _ _ hi']
  interval_cases i <;> simp [maskR, maskPsw]

theorem resetStart_psw (external : Bool) (s : State) :
    pswIsc (resetStart external s).regs.psw = pswIsc s.regs.psw ∧
      pswR (resetStart external s).regs.psw = (!external && pswR s.regs.psw) := by
  cases external with
  | false => exact ⟨rfl, rfl⟩
  | true => exact ⟨pswIsc_withR false s.regs.psw, pswR_withR false s.regs.psw⟩

/-- The reset sequence where memory answers (60_exceptions R523). -/
theorem runReset_plain {s : State} (hr : s.inputs.replies = []) (hb : s.bus = []) (external : Bool)
    (ha : Aligned (wordAt s 0x80)) :
    let a := wordAt s 0x80
    let image := wordAt s a
    let w := runReset external s
    w.regs.psw = processPsw (!external && pswR s.regs.psw) (((pswIsc s.regs.psw).zeroExtend 32 <<< 3) ||| 3) image ∧
      w.regs.pc = wordAt s (a + 4) ∧ w.regs.sp = wordAt s (a + 8) ∧ w.regs.pcbp = processPcbp a image ∧
      w.mem = s.mem ∧ w.virtualMode = false ∧ w.kernelForced = false ∧ w.phase = .running ∧ w.icache = [] ∧
      w.iqueue = [] ∧ w.cacheCorrupt = false ∧ w.pendingOverflow = false ∧ w.traceOpen = false ∧ w.discont = true := by
  intro a image
  obtain ⟨mem, bus, inputs, icache, corrupt, virtual, -⟩ := resetStart_fields external s
  obtain ⟨isc, r⟩ := resetStart_psw external s
  have word : ∀ b, wordAt (resetStart external s) b = wordAt s b := fun b => by rw [wordAt, mem]; rfl
  have plain : Plain (resetStart external s) := ⟨virtual, inputs ▸ hr, bus.trans hb⟩
  have table := load_plain plain (a := 0x80) rfl .systemData
  obtain ⟨w, run, wpsw, wpc, wsp, wpcbp, -, wmem, -, flushed, same⟩ := xswitchTwo_plain plain ha .resetNewPcb
  rw [word] at table wpsw wpc wsp wpcbp flushed
  change w.regs.psw = switchedPsw image (resetStart external s).regs.psw at wpsw
  have ends : onReset external s = .ok (forceKernel false (setCodes (pswIsc w.regs.psw) false 3 w)) := by
    rw [onReset_eq, table]
    show (xswitchTwo (wordAt s 0x80) .resetNewPcb (resetStart external s) >>= _) = _
    rw [run]
    rfl
  have cache : w.icache = [] ∧ w.cacheCorrupt = false := by
    unfold Flushed at flushed
    split at flushed
    · exact ⟨flushed.1.trans icache, flushed.2.trans corrupt⟩
    · exact flushed
  rw [runReset, ends]
  refine ⟨?_, wpc, wsp, wpcbp, wmem.trans mem, same.virtualMode.trans virtual, rfl, rfl, cache.1, rfl, cache.2, rfl, rfl,
    rfl⟩
  show withCodes (pswIsc w.regs.psw) false 3 w.regs.psw &&& maskPsw = _
  rw [wpsw, pswIsc_switched, processPsw_of_switched, isc, r]

/-- Where a word cannot be read it starts again at the next step, nothing written (60_exceptions R575). -/
theorem runReset_refused {s : State} (hb : s.bus = []) (external : Bool) :
    let k := { forceKernel true s with virtualMode := false }
    let again := fun (isc : BitVec 4) =>
      let w := runReset external s
      w.phase = .resetting false ∧ pswIsc w.regs.psw = isc ∧ w.mem = s.mem
    (Unreadable k 0x80 → again 1) ∧
      ∀ a, memRead k .operandFetch .word 0x80 = some a → ContextUnreadable a k → again 4 := by
  intro k again
  obtain ⟨mem, bus, inputs, -, -, virtual, forced⟩ := resetStart_fields external s
  have alike : Alike k (resetStart external s) := .forced (bus.trans rfl) hb rfl forced virtual inputs
  have fails : ∀ {x : Exn} {t : State}, x ≠ .externalReset → onReset external s = .error (x, t) → t.mem = s.mem →
      again x.code := by
    intro x t hx h hm
    show State.phase (runReset external s) = _ ∧ _
    rw [runReset, h]
    exact ⟨congrArg Phase.resetting (beq_false_of_ne hx), pswIsc_recordCause x t, hm⟩
  refine ⟨fun h => ?_, fun a ha h => ?_⟩
  · have table := loadAs_fails alike.bus ((alike.unreadable 0x80).mpr h) .systemData
    refine fails (x := .systemData) (by decide) ?_ mem
    rw [onReset_eq, load, table]
    rfl
  · have table : memRead (resetStart external s) .operandFetch .word 0x80 = some a := by
      rw [memRead, alike.readReach, mem]; exact ha
    obtain ⟨u, run, um, -⟩ | ⟨_, _, -, -, -, hc, -⟩ := xswitchTwo_reach alike forced a .resetNewPcb
    · refine fails (x := .resetNewPcb) (t := u) (by decide) ?_ (um.trans mem)
      rw [onReset_eq, load, loadAs_quiet alike.bus table]
      show (xswitchTwo a .resetNewPcb (resetStart external s) >>= _) = _
      rw [run]
      rfl
    · exact absurd h hc

/-- Settles O11. -/
theorem externalResetSequence : Obligations.ExternalResetSequence := by
  unfold Obligations.ExternalResetSequence
  refine ⟨fun s hr hb => ?runs, fun s => rfl, fun s external hb => ?again⟩
  case runs =>
    intro a image left ha
    refine ⟨⟨_, rfl, ?_⟩, fun e he hx => ?_⟩
    · obtain ⟨psw, rest⟩ := runReset_plain (s := recordCause .externalReset { s with phase := .resetting true }) hr hb true ha
      rw [pswIsc_recordCause] at psw
      exact ⟨psw.trans (congrArg (· ||| _) (BitVec.or_zero)), rest⟩
    · obtain ⟨psw, rest⟩ := runReset_plain (s := recordCause e s) hr hb false ha
      rw [pswIsc_recordCause, pswR_recordCause] at psw
      have raised : raise e s = runReset false (recordCause e s) := by simp only [raise, he, raiseReset, if_neg hx]
      rw [raised]
      exact ⟨psw, rest⟩
  case again =>
    intro k again
    cases external with
    | true =>
      obtain ⟨first, rest⟩ := runReset_refused (s := recordCause .externalReset { s with phase := .resetting true }) hb true
      exact ⟨fun h => ⟨_, rfl, first h⟩, fun a ha h => ⟨_, rfl, rest a ha h⟩⟩
    | false =>
      obtain ⟨first, rest⟩ := runReset_refused (s := { s with phase := .resetting false }) hb false
      exact ⟨fun h => ⟨_, rfl, first h⟩, fun a ha h => ⟨_, rfl, rest a ha h⟩⟩

end Sys2Proof.Machine
end

section
/-! The obligations on process switches that save a context: stack exceptions, the full interrupt, CALLPS, RETPS and the
block moves (spec/46_operating_system.md R476 to R480; spec/60_exceptions.md R521, R533). -/

namespace Sys2Proof.Machine

/-! ## What a switch leaves -/

/-- What a process switch leaves, from s to the process whose PCB is at a: n bytes of the PCB left may be written, rs are
the further registers that change. -/
def Switched (s : State) (a saved pc : Word) (n : Nat) (rs : List Reg) (w : State) : Prop :=
  wordAt w s.regs.isp = s.regs.pcbp ∧ wordAt w s.regs.pcbp = saved ∧ wordAt w (s.regs.pcbp + 4) = pc ∧
    wordAt w (s.regs.pcbp + 8) = s.regs.sp ∧
    (∀ x, ¬(x - s.regs.isp).toNat < 4 → ¬(x - s.regs.pcbp).toNat < 12 →
      ¬(20 ≤ (x - s.regs.pcbp).toNat ∧ (x - s.regs.pcbp).toNat < n) → peek w.mem x = peek s.mem x) ∧
    w.regs.psw = processPsw (pswR (wordAt s a)) 0x3B (wordAt s a) ∧ w.regs.pc = wordAt s (a + 4) ∧
    w.regs.sp = wordAt s (a + 8) ∧ w.regs.pcbp = processPcbp a (wordAt s a) ∧ w.regs.isp = s.regs.isp + 4 ∧
    OnlyRegs ([.psw, .pc, .sp, .pcbp, .isp] ++ rs) s w ∧ Flushed (wordAt s a) s w

/-- The other registers are in the PCB left, and FP is behind the place of r5 in it (46_operating_system R476). -/
def RowSaved (s w : State) : Prop :=
  w.regs.fp = s.regs.pcbp + 52 ∧ wordAt w (s.regs.pcbp + 20) = s.regs.ap ∧ wordAt w (s.regs.pcbp + 24) = s.regs.fp ∧
    ∀ k, k < 9 → wordAt w (s.regs.pcbp + 28 + BitVec.ofNat 32 (4 * k)) = reg s (Reg.ofNum (BitVec.ofNat 4 k))

/-- The bytes of the PCB left that a switch may write (46_operating_system R476). -/
def savedBytes (image : Word) : Nat := if pswR image then 64 else 12

/-- A word clear of what a switch may write in the PCB at b reads as before. -/
theorem wordAt_clear {u w : State} {b x image : Word} (hb : Aligned b) (hx : Aligned x)
    (frame : ∀ x, ¬(x - b).toNat < 12 → ¬(20 ≤ (x - b).toNat ∧ (x - b).toNat < savedBytes image) →
      peek w.mem x = peek u.mem x) (h : ¬(x - b).toNat < savedBytes image) : wordAt w x = wordAt u x := by
  have twelve : 12 ≤ savedBytes image := by unfold savedBytes; split <;> decide
  have words : 4 * (savedBytes image / 4) = savedBytes image := by unfold savedBytes; split <;> decide
  refine readData_outside (n := savedBytes image / 4) hb hx (fun y hy => frame y ?_ ?_) ?_ <;> omega

/-- The context of c saved and the PCB at a loaded, where what is read is clear of what is saved (46_operating_system R476,
R477). -/
theorem saveAndLoad_plain {c : State} (hw : c.mem.wf = true) (hpsw : c.regs.psw &&& 0xFC000000 = 0) (hp : Plain c)
    (hb : Aligned c.regs.pcbp) {a : Word} (ha : Aligned a)
    (clear : ∀ x ∈ [a, a + 4, a + 8], ¬(x - c.regs.pcbp).toNat < savedBytes (wordAt c a)) :
    let image := wordAt c a
    let psw := (c.regs.psw &&& 0x03FFFEFF) ||| (image &&& 0x00000100)
    ∃ w, (xswitchOne a .oldPcb c >>= xswitchTwo a .newPcb) = .ok w ∧ wordAt w c.regs.pcbp = psw ∧
      wordAt w (c.regs.pcbp + 4) = c.regs.pc ∧ wordAt w (c.regs.pcbp + 8) = c.regs.sp ∧
      (∀ x, ¬(x - c.regs.pcbp).toNat < 12 →
        ¬(20 ≤ (x - c.regs.pcbp).toNat ∧ (x - c.regs.pcbp).toNat < savedBytes image) → peek w.mem x = peek c.mem x) ∧
      w.regs.psw = switchedPsw image psw ∧ w.regs.pc = wordAt c (a + 4) ∧ w.regs.sp = wordAt c (a + 8) ∧
      w.regs.pcbp = processPcbp a image ∧
      OnlyRegs ([.psw, .pc, .sp, .pcbp] ++ if pswR image then [.fp] else []) c w ∧ Flushed image c w ∧ SameMachine c w ∧
      (pswR image = true → RowSaved c w) := by
  intro image psw
  obtain ⟨saves, -⟩ := contextSave
  have twelve : 12 ≤ savedBytes image := by unfold savedBytes; split <;> decide
  have apart : a ≠ c.regs.pcbp + 4 := by
    rintro rfl
    refine clear _ (List.mem_cons_self) (Nat.lt_of_lt_of_le ?_ twelve)
    rw [show c.regs.pcbp + 4 - c.regs.pcbp = 4 by rw [BitVec.add_comm, BitVec.add_sub_cancel]]
    decide
  obtain ⟨t, save, same, discont, icache, -, corrupt, tpsw, w0, w4, w8, plain, row⟩ :=
    saves c a .oldPcb hw hpsw hp hb ha
  have himage : wordAt { c with mem := writeData c.mem .word (c.regs.pcbp + 4) c.regs.pc } a = image :=
    readData_writeData_ne hw (hb.add (k := 4) rfl) ha (Ne.symm apart) _
  rw [himage] at tpsw w0 plain row
  have frame : OnlyRegs (.psw :: if pswR image then [.fp] else []) c t ∧ ∀ x, ¬(x - c.regs.pcbp).toNat < 12 →
      ¬(20 ≤ (x - c.regs.pcbp).toNat ∧ (x - c.regs.pcbp).toNat < savedBytes image) → peek t.mem x = peek c.mem x := by
    cases hr : pswR image with
    | false => exact ⟨(plain hr).1, fun x h _ => (plain hr).2 x h⟩
    | true =>
      obtain ⟨regs, -, -, -, -, frame⟩ := row hr
      exact ⟨regs, fun x h g => frame x h (by simpa only [savedBytes, hr, if_true] using g)⟩
  have reads : ∀ x, Aligned x → ¬(x - c.regs.pcbp).toNat < savedBytes image → wordAt t x = wordAt c x :=
    fun x hx h => wordAt_clear hb hx frame.2 h
  simp only [List.forall_mem_cons, List.not_mem_nil, false_imp_iff, implies_true, and_true] at clear
  obtain ⟨c0, c4, c8⟩ := clear
  have tplain : Plain t := ⟨same.virtualMode.trans hp.1, (congrArg Inputs.replies same.inputs).trans hp.2.1,
    same.bus.trans hp.2.2⟩
  obtain ⟨w, load, wpsw, wpc, wsp, wpcbp, wregs, wmem, -, wflushed, wsame⟩ := xswitchTwo_plain tplain ha .newPcb
  rw [reads a ha c0] at wpsw wpcbp wflushed
  rw [reads _ (ha.add (k := 4) rfl) c4] at wpc
  rw [reads _ (ha.add (k := 8) rfl) c8] at wsp
  rw [tpsw] at wpsw
  have words : ∀ x, wordAt w x = wordAt t x := fun x => by rw [wordAt, wmem]; rfl
  refine ⟨w, ?_, (words _).trans w0, (words _).trans w4, (words _).trans w8, fun x h g => ?_, wpsw, wpc, wsp, wpcbp,
    ?_, ?_, same.trans wsame, fun hr => ?_⟩
  · rw [save]; exact load
  · rw [wmem]; exact frame.2 x h g
  · exact (frame.1.trans wregs).mono (by cases pswR image <;> decide)
  · rw [Flushed, icache, corrupt] at wflushed; exact wflushed
  · obtain ⟨-, fp, ap, fp', general, -⟩ := row hr
    exact ⟨(wregs .fp (by decide)).trans fp, (words _).trans ap, (words _).trans fp', fun k hk => (words _).trans (general k hk)⟩

/-! ## The whole sequence -/

/-- What the stack exceptions, the full interrupt and CALLPS share: f sets the codes (and the PC) of the context saved. -/
def switchRun (f : State → State) (a : Word) (s : State) : Run State := do
  let t ← pushPcbp s
  let w ← xswitchOne a .oldPcb (f t) >>= xswitchTwo a .newPcb
  .ok (setCodes 7 false 3 w)

/-- f sets the codes and the PC. -/
def SetsContext (f : State → State) : Prop := ∀ t, ∃ isc tm et pc, f t = setCodes isc tm et (setReg .pc pc t)

/-- The low seven bits of the PSW saved are the codes, and its bit 8 is R of the new image (46_operating_system R476). -/
theorem savedPsw_codes (isc : BitVec 4) (tm : Bool) (et : BitVec 2) (w image : Word) :
    (withCodes isc tm et w &&& maskPsw &&& 0x03FFFEFF) ||| (image &&& 0x00000100) =
      (w &&& 0x03FFFE80) ||| (image &&& 0x00000100) ||| codes isc tm et := by
  apply BitVec.eq_of_getLsbD_eq
  intro i hi
  simp only [BitVec.getLsbD_or, BitVec.getLsbD_and, withCodes, getLsbD_merge _ _ _ hi, getLsbD_codes _ _ _ hi]
  interval_cases i <;> simp [maskCodes, maskPsw]

theorem pswR_saved (w image : Word) : pswR ((w &&& 0x03FFFEFF) ||| (image &&& 0x00000100)) = pswR image := by
  simp [pswR]

theorem switchRun_plain {s : State} (hw : s.mem.wf = true) (hp : Plain s) (hi : Aligned s.regs.isp)
    (hb : Aligned s.regs.pcbp) {a : Word} (ha : Aligned a) {f : State → State} {isc : BitVec 4} {tm : Bool} {et : BitVec 2}
    {pc : Word} (hf : f (pcbpPushed s) = setCodes isc tm et (setReg .pc pc (pcbpPushed s)))
    (clear : ∀ x ∈ [a, a + 4, a + 8], x ≠ s.regs.isp ∧ ¬(x - s.regs.pcbp).toNat < savedBytes (wordAt s a))
    (top : ¬(s.regs.isp - s.regs.pcbp).toNat < savedBytes (wordAt s a)) :
    let image := wordAt s a
    let saved := (s.regs.psw &&& 0x03FFFE80) ||| (image &&& 0x00000100) ||| codes isc tm et
    ∃ w, switchRun f a s = .ok w ∧
      Switched s a saved pc (savedBytes image) (if pswR image then [.fp] else []) w ∧ SameMachine s w ∧
      (pswR image = true → RowSaved s w) := by
  intro image saved
  have c0 := clear a (by simp)
  have c4 := clear (a + 4) (by simp)
  have c8 := clear (a + 8) (by simp)
  have word : ∀ x, Aligned x → x ≠ s.regs.isp → wordAt (f (pcbpPushed s)) x = wordAt s x := fun x hx hn => by
    rw [hf]; exact wordAt_pcbpPushed hw hi hx hn.symm
  have mem : (f (pcbpPushed s)).mem = writeData s.mem .word s.regs.isp s.regs.pcbp := by rw [hf]; rfl
  have regs : OnlyRegs [.isp, .pc, .psw] s (f (pcbpPushed s)) := by
    rw [hf]
    refine ((onlyRegs_pcbpPushed s).trans (t := pcbpPushed s) (qs := [.pc, .psw]) fun r hr => ?_)
    simp only [List.mem_cons, List.not_mem_nil, or_false, not_or] at hr
    rw [setCodes, reg_setPsw, if_neg hr.2, reg_setReg_ne hr.1]
  have isp : (f (pcbpPushed s)).regs.isp = s.regs.isp + 4 := by rw [hf]; rfl
  have cpc : (f (pcbpPushed s)).regs.pc = pc := by rw [hf]; rfl
  have psw : (f (pcbpPushed s)).regs.psw = withCodes isc tm et s.regs.psw &&& maskPsw := by rw [hf]; rfl
  have cache : (f (pcbpPushed s)).icache = s.icache ∧ (f (pcbpPushed s)).cacheCorrupt = s.cacheCorrupt := by
    rw [hf]; exact ⟨rfl, rfl⟩
  have same : SameMachine s (f (pcbpPushed s)) := by
    rw [hf]
    exact (sameMachine_pcbpPushed s).trans ((sameMachine_setReg _ _ _).trans (sameMachine_setReg .psw _ _))
  have push : pushPcbp s = .ok (pcbpPushed s) := pushPcbp_plain hp hi
  generalize hc : f (pcbpPushed s) = c at *
  have pcbp : c.regs.pcbp = s.regs.pcbp := regs .pcbp (by decide)
  have plain : Plain c := ⟨same.virtualMode.trans hp.1, (congrArg Inputs.replies same.inputs).trans hp.2.1,
    same.bus.trans hp.2.2⟩
  have himage : wordAt c a = image := word a ha c0.1
  obtain ⟨w, run, w0, w4, w8, frame, wpsw, wpc, wsp, wpcbp, wregs, flushed, wsame, row⟩ := saveAndLoad_plain
    (by rw [mem]; exact wf_writeData hw _ _ _)
    (by rw [psw]; exact masked_high _) plain (pcbp ▸ hb) ha
    (by rw [himage, pcbp]; exact fun x hx => (clear x hx).2)
  rw [pcbp] at w0 w4 w8 frame
  rw [himage] at w0 frame wpsw wpcbp wregs flushed row
  rw [psw] at w0 wpsw
  have wisp : w.regs.isp = s.regs.isp + 4 := (wregs .isp (by cases pswR image <;> decide)).trans isp
  have wregs' := (regs.trans wregs).trans (onlyRegs_setCodes 7 false 3 w)
  refine ⟨setCodes 7 false 3 w, ?_, ⟨?_, w0.trans (savedPsw_codes _ _ _ _ _), w4.trans cpc,
    w8.trans (regs .sp (by decide)), fun x h g k => ?_, ?_, wpc.trans ?_, wsp.trans ?_, wpcbp, wisp, ?_, ?_⟩,
    same.trans (wsame.trans (sameMachine_setReg .psw _ _)), fun hr => ?_⟩
  · simp only [switchRun, push, bind, Except.bind, hc]
    simp only [bind, Except.bind] at run
    rw [run]
  · refine (wordAt_clear (u := c) hb hi frame top).trans ?_
    rw [wordAt, mem]; exact readData_writeData hw .word _ _
  · refine (frame x g k).trans ?_
    rw [mem]; exact peek_writeData_other hw (size := .word) h _
  · show withCodes 7 false 3 w.regs.psw &&& maskPsw = _
    rw [wpsw, processPsw_of_switched, pswR_saved]; rfl
  · exact word _ (ha.add (k := 4) rfl) c4.1
  · exact word _ (ha.add (k := 8) rfl) c8.1
  · exact wregs'.mono (by cases pswR image <;> decide)
  · rw [Flushed, cache.1, cache.2] at flushed; exact flushed
  · obtain ⟨fp, ap, fp', general⟩ := row hr
    rw [pcbp] at fp ap fp' general
    refine ⟨fp, ap.trans (regs .ap (by decide)), fp'.trans (regs .fp (by decide)), fun k hk =>
      (general k hk).trans (regs _ ?_)⟩
    revert k; decide

/-- What the sequence raises where an access is refused (46_operating_system R482). -/
theorem switchRun_refused {s : State} (hb : s.bus = []) (hk : s.kernelForced = true) {f : State → State}
    (hf : SetsContext f) (a : Word) :
    (Unwritable s s.regs.isp → switchRun f a s = .error (.interruptStack, s)) ∧
      (Writable s s.regs.isp → ContextRefused a s → ∃ t, switchRun f a s = .error (.oldPcb, t)) ∧
      (Writable s s.regs.isp → ContextGranted a s → ContextUnreadable a s →
        ∃ t, switchRun f a s = .error (.newPcb, t)) := by
  obtain ⟨push, hn⟩ | ⟨m, push, hn⟩ := pushPcbp_reach (.refl hb)
  · exact ⟨fun _ => by simp only [switchRun, push, bind, Except.bind], fun h => absurd h hn, fun h => absurd h hn⟩
  obtain ⟨isc, tm, et, pc, hc⟩ := hf (setReg .isp (s.regs.isp + 4) { s with mem := m })
  have alike : Alike s (f (setReg .isp (s.regs.isp + 4) { s with mem := m })) := by
    rw [hc]; exact .forced rfl hb hk hk rfl rfl
  have forced : (f (setReg .isp (s.regs.isp + 4) { s with mem := m })).kernelForced = true := by rw [hc]; exact hk
  have pcbp : (f (setReg .isp (s.regs.isp + 4) { s with mem := m })).regs.pcbp = s.regs.pcbp := by rw [hc]; rfl
  have onward : switchRun f a s = xswitchOne a .oldPcb (f (setReg .isp (s.regs.isp + 4) { s with mem := m })) >>=
      fun t => xswitchTwo a .newPcb t >>= fun w => .ok (setCodes 7 false 3 w) := by
    simp only [switchRun, push, bind_assoc]; rfl
  rw [onward]
  refine ⟨fun h => absurd h hn, fun _ h => ?_, fun _ granted h => ?_⟩ <;>
    obtain ⟨u, save, denied⟩ | ⟨v, save, valike, vforced, -, allowed, -⟩ := xswitchOne_reach alike forced pcbp a .oldPcb <;>
    rw [save]
  · exact ⟨u, rfl⟩
  · exact absurd h allowed
  · exact absurd granted denied
  · obtain ⟨u, load, -⟩ | ⟨_, _, -, -, -, readable, -⟩ := xswitchTwo_reach valike vforced a .newPcb
    · exact ⟨u, by show (xswitchTwo a .newPcb v >>= _) = _; rw [load]; rfl⟩
    · exact absurd h readable

/-! ## The stack exceptions -/

/-- The codes the PSW saved by a stack exception has (60_exceptions R521). -/
def stackCodes (code : BitVec 4) (s : State) : State := setCodes code (pswTm s.regs.psw) 2 s

theorem setsContext_stackCodes (code : BitVec 4) : SetsContext (stackCodes code) := fun t =>
  ⟨code, pswTm t.regs.psw, 2, t.regs.pc, rfl⟩

theorem onStack_eq (code : BitVec 4) (s : State) :
    onStack code s = load .systemData 0x88 (forceKernel true s) >>= fun p =>
      switchRun (stackCodes code) p.1 p.2 >>= fun w => .ok (forceKernel false w) := by
  simp only [onStack, switchRun, bind_assoc]
  rfl

theorem raise_stack_taken {e : Exn} {s t : State} (he : e.severity = .stack)
    (h : onStack e.code (recordCause e s) = .ok t) : raise e s = settle t := by
  simp only [raise, he, raiseStack, h]

/-- One whose sequence fails ripples up (60_exceptions R513). -/
theorem raise_stack_fails {e x : Exn} {s t : State} (he : e.severity = .stack)
    (hx : x.severity = .process ∨ x.severity = .reset) (h : onStack e.code (recordCause e s) = .error (x, t)) :
    raise e s = raise x t := by
  rcases hx with hx | hx <;> simp [raise, he, hx, raiseStack, h]

/-- The PSW a stack exception saves (60_exceptions R521). -/
theorem stackImage_eq (code : BitVec 4) (w image : Word) :
    (withIsc code w &&& maskPsw &&& 0x03FFFE80) ||| (image &&& 0x00000100) |||
        codes code (pswTm (withIsc code w &&& maskPsw)) 2 =
      (w &&& 0x03FFFE84) ||| (image &&& 0x00000100) ||| (code.zeroExtend 32 <<< 3) ||| 2 := by
  apply BitVec.eq_of_getLsbD_eq
  intro i hi
  simp only [BitVec.getLsbD_or, BitVec.getLsbD_and, withIsc, withCodes, pswTm, getLsbD_merge _ _ _ hi,
    getLsbD_merge _ _ _ (show 2 < 32 by decide), getLsbD_codes _ _ _ hi, getLsbD_codes _ _ _ (show 2 < 32 by decide)]
  interval_cases i <;> simp [maskCodes, maskPsw]

/-- Settles O22. -/
theorem stackBoundRipples : Obligations.StackBoundRipples := by
  unfold Obligations.StackBoundRipples
  refine ⟨fun e s he hp hb h => ?ripples, fun e s he hw hpsw hp hi hb => ?enters, fun e s he hb => ?refused⟩
  case ripples =>
    obtain ⟨-, nsp, npcbp, nmem, nbus, -, -⟩ := enterNormal_fields e s
    have nsame := sameMachine_enterNormal e s
    have nregs := onlyRegs_enterNormal e s
    have fails : ∀ {x : Exn} {t : State}, x.severity ≠ .normal → onNormal (enterNormal e s) = .error (x, t) →
        raise e s = raise x t := fun hx h => raise_normal_fails he hx h
    generalize enterNormal e s = n at *
    have nplain : Plain n :=
      ⟨nsame.virtualMode.trans hp.1, (congrArg Inputs.replies nsame.inputs).trans hp.2.1, nbus.trans hp.2.2⟩
    have bounds := checkBounds_outside nplain (npcbp ▸ hb) (by rw [nsp, npcbp, wordAt, wordAt, nmem]; exact h)
    refine ⟨fails (by decide) ?_, fun x => congrArg (peek · x) nmem, nregs⟩
    rw [onNormal_eq, bounds]
    rfl
  case enters =>
    intro a image saved n ha clear top
    have nregs : OnlyRegs [.psw] s (recordCause e s) := onlyRegs_setCodes _ _ _ s
    have nsame : SameMachine s (recordCause e s) := sameMachine_setReg .psw _ _
    obtain ⟨w, run, ⟨pushed, psaved, ppc, psp, frame, psw, pc, sp, pcbp, isp, regs, flushed⟩, same, row⟩ :=
      switchRun_plain (s := forceKernel true (recordCause e s)) hw hp hi hb ha (f := stackCodes e.code) (pc := s.regs.pc)
        rfl clear top
    have table : load .systemData 0x88 (forceKernel true (recordCause e s)) =
        .ok (a, forceKernel true (recordCause e s)) :=
      load_plain (s := forceKernel true (recordCause e s)) (a := 0x88) hp rfl _
    have taken : onStack e.code (recordCause e s) = .ok (forceKernel false w) := by
      rw [onStack_eq, table]
      show (switchRun (stackCodes e.code) a (forceKernel true (recordCause e s)) >>= _) = _
      rw [run]; rfl
    refine ⟨_, raise_stack_taken he taken, pushed, psaved.trans (stackImage_eq _ _ _), ppc, psp, frame, psw, pc, sp, pcbp,
      isp, ?_, flushed, rfl, rfl, fun hr => ?_, sameMachine_settle (x := w) ((nsame.forced true).trans same)⟩
    · exact (nregs.trans regs).mono fun r hr => (List.mem_append.mp hr).elim
        (fun h => List.mem_append_left _ (by rw [List.mem_singleton.mp h]; decide)) id
    · obtain ⟨fp, ap, fp', general⟩ := row hr
      refine ⟨fp, ap, fp', fun k hk => (general k hk).trans (nregs _ ?_)⟩
      revert k; decide
  case refused =>
    intro k
    have alike : Alike k k := .refl hb
    have fails : ∀ {x : Exn} {t : State}, x.severity = .process ∨ x.severity = .reset →
        onStack e.code (recordCause e s) = .error (x, t) → raise e s = raise x t := fun hx h => raise_stack_fails he hx h
    refine ⟨fun h => fails (.inr rfl) ?_, fun a ha => ?_⟩
    · rw [onStack_eq, show load .systemData 0x88 k = .error (.systemData, k) from loadAs_fails (s := k) hb h _]
      rfl
    · have onward : onStack e.code (recordCause e s) =
          switchRun (stackCodes e.code) a k >>= fun w => .ok (forceKernel false w) := by
        rw [onStack_eq, show load .systemData 0x88 k = .ok (a, k) from loadAs_quiet (s := k) hb ha _]
        rfl
      obtain ⟨push, save, read⟩ := switchRun_refused (s := k) hb rfl (setsContext_stackCodes e.code) a
      refine ⟨fun h => fails (.inr rfl) ?_, fun w h => ?_, fun w g h => ?_⟩
      · rw [onward, push h]; rfl
      · obtain ⟨t, run⟩ := save w h
        exact ⟨t, fails (.inl rfl) (by rw [onward, run]; rfl)⟩
      · obtain ⟨t, run⟩ := read w g h
        exact ⟨t, fails (.inl rfl) (by rw [onward, run]; rfl)⟩

end Sys2Proof.Machine
end

section
/-! The obligations on the full interrupt, CALLPS, RETPS and the block moves (spec/46_operating_system.md R478 to R480;
spec/60_exceptions.md R533). -/

namespace Sys2Proof.Machine

/-! ## The first block -/

theorem nextBlock_plain {s : State} (hp : Plain s) (ha : Aligned s.regs.r0) (o : Switch) :
    nextBlock o s = .ok { setReg .r0 (s.regs.r0 + 4) (setReg .r2 (wordAt s s.regs.r0) s) with
      phase := .blockMoves o false } := by
  simp only [nextBlock, load_plain hp ha, bind, Except.bind]

/-- The state at the start of the block moves (46_operating_system R478). -/
def blocksBegun (o : Switch) (s : State) : State :=
  { setReg .r0 (s.regs.pcbp + 68) (setReg .r2 (wordAt s (s.regs.pcbp + 64)) s) with phase := .blockMoves o false }

theorem xswitchThree_blocks {s : State} (hp : Plain s) (ha : Aligned s.regs.pcbp) (hr : pswR s.regs.psw = true)
    (o : Switch) : xswitchThree o s = .ok (blocksBegun o s) := by
  have place : s.regs.pcbp + 64 + 4 = s.regs.pcbp + 68 := by rw [BitVec.add_assoc]; rfl
  rw [xswitchThree, if_pos hr,
    nextBlock_plain (s := setReg .r0 (s.regs.pcbp + 64) s) hp (ha.add (k := 64) rfl) o, blocksBegun, ← place]
  rfl

theorem xswitchThree_ends {s : State} (hr : pswR s.regs.psw = false) (o : Switch) : xswitchThree o s = endSwitch o s := by
  rw [xswitchThree, hr, if_neg Bool.false_ne_true]

theorem pswR_processPsw (r : Bool) (image : Word) : pswR (processPsw r 0x3B image) = r := by
  cases r <;> simp [pswR, processPsw]

theorem aligned_processPcbp {a : Word} (ha : Aligned a) (image : Word) : Aligned (processPcbp a image) := by
  unfold processPcbp
  split
  · exact ha.add (k := 12) rfl
  · exact ha

theorem onlyRegs_blocksBegun (o : Switch) (s : State) : OnlyRegs [.r0, .r2] s (blocksBegun o s) := fun r hr => by
  simp only [List.mem_cons, List.not_mem_nil, or_false, not_or] at hr
  exact (reg_setReg_ne hr.1 _ _).trans (reg_setReg_ne hr.2 _ _)

/-! ## The context saved, and the block moves begun -/

/-- A word clear of the push and of what is saved reads as before the switch. -/
theorem Switched.reads {s w : State} {a saved pc : Word} {rs : List Reg} {image : Word}
    (h : Switched s a saved pc (savedBytes image) rs w) (hi : Aligned s.regs.isp) (hb : Aligned s.regs.pcbp) {x : Word}
    (hx : Aligned x) (hn : x ≠ s.regs.isp) (hc : ¬(x - s.regs.pcbp).toNat < savedBytes image) :
    wordAt w x = wordAt s x := by
  obtain ⟨-, -, -, -, frame, -⟩ := h
  have size : savedBytes image % 4 = 0 ∧ 12 ≤ savedBytes image := by unfold savedBytes; split <;> decide
  refine readData_congr fun k hk => ?_
  have outside : ¬(x + BitVec.ofNat 32 k - s.regs.pcbp).toNat < savedBytes image := by
    rw [aligned_iff] at hx hb
    have := x.isLt
    have := s.regs.pcbp.isLt
    simp only [Size.bytes] at hk
    simp only [BitVec.toNat_sub, BitVec.toNat_add, BitVec.toNat_ofNat] at hc ⊢
    omega
  exact frame _ (not_covers_aligned hi hx hn.symm hk) (by omega) (by omega)

/-- An aligned word that is none of the first three of a PCB is outside them. -/
theorem outside_twelve {b x : Word} (hb : Aligned b) (hx : Aligned x) (h : x ∉ [b, b + 4, b + 8]) :
    ¬(x - b).toNat < 12 := by
  intro hlt
  rw [aligned_iff] at hb hx
  have place : ∀ k : Nat, (x - b).toNat = k → x = b + BitVec.ofNat 32 k := by
    rintro k rfl
    rw [BitVec.ofNat_toNat, BitVec.setWidth_eq, BitVec.add_comm, BitVec.sub_add_cancel]
  have step : (x - b).toNat % 4 = 0 := by
    have := x.isLt
    have := b.isLt
    rw [BitVec.toNat_sub]
    omega
  simp only [List.mem_cons, List.not_mem_nil, or_false, not_or] at h
  obtain ⟨h0, h4, h8⟩ := h
  have : (x - b).toNat = 0 ∨ (x - b).toNat = 4 ∨ (x - b).toNat = 8 := by omega
  rcases this with h | h | h
  · exact h0 ((place 0 h).trans (BitVec.add_zero b))
  · exact h4 (place 4 h)
  · exact h8 (place 8 h)

/-- The switch to a process without blocks (46_operating_system R477, R478). -/
theorem switch_plain {s : State} (hw : s.mem.wf = true) (hp : Plain s) (hi : Aligned s.regs.isp)
    (hb : Aligned s.regs.pcbp) {a : Word} (ha : Aligned a) {f : State → State} {isc : BitVec 4} {tm : Bool} {et : BitVec 2}
    {pc : Word} (hf : f (pcbpPushed s) = setCodes isc tm et (setReg .pc pc (pcbpPushed s))) (o : Switch)
    (hr : pswR (wordAt s a) = false)
    (clear : ∀ x ∈ [s.regs.isp, s.regs.pcbp, s.regs.pcbp + 4, s.regs.pcbp + 8], x ∉ [a, a + 4, a + 8])
    (top : s.regs.isp ∉ [s.regs.pcbp, s.regs.pcbp + 4, s.regs.pcbp + 8]) :
    ∃ w, (switchRun f a s >>= xswitchThree o) = endSwitch o w ∧
      Switched s a ((s.regs.psw &&& 0x03FFFE80) ||| (wordAt s a &&& 0x00000100) ||| codes isc tm et) pc 12 [] w ∧
      SameMachine s w := by
  have size : savedBytes (wordAt s a) = 12 := by rw [savedBytes, hr, if_neg Bool.false_ne_true]
  have aligned : ∀ x ∈ [a, a + 4, a + 8], Aligned x := by
    simp only [List.forall_mem_cons, List.not_mem_nil, false_imp_iff, implies_true, and_true]
    exact ⟨ha, ha.add (k := 4) rfl, ha.add (k := 8) rfl⟩
  obtain ⟨w, run, switched, same, -⟩ := switchRun_plain hw hp hi hb ha hf
    (fun x hx => ⟨fun h => clear s.regs.isp (List.mem_cons_self) (h ▸ hx), size ▸ outside_twelve hb (aligned x hx) fun h =>
      clear x (List.mem_cons_of_mem _ h) hx⟩)
    (size ▸ outside_twelve hb hi top)
  rw [size, hr, if_neg Bool.false_ne_true] at switched
  obtain ⟨-, -, -, -, -, psw, -⟩ := id switched
  refine ⟨w, ?_, switched, same⟩
  rw [run]
  exact xswitchThree_ends (by rw [psw, pswR_processPsw, hr]) o

/-- The switch to a process with blocks (46_operating_system R477, R478). -/
theorem switch_blocks {s : State} (hw : s.mem.wf = true) (hp : Plain s) (hi : Aligned s.regs.isp)
    (hb : Aligned s.regs.pcbp) {a : Word} (ha : Aligned a) {f : State → State} {isc : BitVec 4} {tm : Bool} {et : BitVec 2}
    {pc : Word} (hf : f (pcbpPushed s) = setCodes isc tm et (setReg .pc pc (pcbpPushed s))) (o : Switch)
    (hr : pswR (wordAt s a) = true)
    (clear : ∀ x ∈ [a, a + 4, a + 8, processPcbp a (wordAt s a) + 64],
      x ≠ s.regs.isp ∧ ¬(x - s.regs.pcbp).toNat < 64)
    (top : ¬(s.regs.isp - s.regs.pcbp).toNat < 64) :
    let saved := (s.regs.psw &&& 0x03FFFE80) ||| (wordAt s a &&& 0x00000100) ||| codes isc tm et
    ∃ w, (switchRun f a s >>= xswitchThree o) = .ok w ∧ Switched s a saved pc 64 [.fp, .r0, .r2] w ∧ RowSaved s w ∧
      w.regs.r0 = processPcbp a (wordAt s a) + 68 ∧ w.regs.r2 = wordAt s (processPcbp a (wordAt s a) + 64) ∧
      SameMachine { s with phase := .blockMoves o false } w := by
  intro saved
  have size : savedBytes (wordAt s a) = 64 := by rw [savedBytes, hr, if_pos rfl]
  obtain ⟨w, run, switched, same, row⟩ := switchRun_plain hw hp hi hb ha hf
    (fun x hx => size ▸ clear x (List.mem_append_left [_] hx)) (size ▸ top)
  obtain ⟨block, hblock⟩ := clear (processPcbp a (wordAt s a) + 64) (by simp)
  have first := switched.reads hi hb ((aligned_processPcbp ha _).add (k := 64) rfl) block (size ▸ hblock)
  rw [size, hr, if_pos rfl] at switched
  obtain ⟨pushed, psaved, ppc, psp, frame, psw, wpc, sp, pcbp, isp, regs, flushed⟩ := switched
  have plain : Plain w := ⟨same.virtualMode.trans hp.1, (congrArg Inputs.replies same.inputs).trans hp.2.1,
    same.bus.trans hp.2.2⟩
  refine ⟨blocksBegun o w, ?_, ⟨pushed, psaved, ppc, psp, frame, psw, wpc, sp, pcbp, isp,
    (regs.trans (onlyRegs_blocksBegun o w)).mono (by decide), flushed⟩, row hr, ?_, ?_, ?_⟩
  · rw [run]
    exact xswitchThree_blocks plain (pcbp ▸ aligned_processPcbp ha _) (by rw [psw, pswR_processPsw, hr]) o
  · show w.regs.pcbp + 68 = _
    rw [pcbp]
  · show wordAt w (w.regs.pcbp + 64) = _
    rw [pcbp, first]
  · exact ⟨same.1, same.2, rfl, same.4, same.5, same.6, same.7, same.8, same.9, same.10, same.11, same.12⟩

/-! ## The full interrupt -/

theorem fullInterrupt_eq (id : Word) (s : State) :
    fullInterrupt id s = load .systemData (0x8C + id * 4) (forceKernel true s) >>= fun p =>
      switchRun (setCodes 0 false 1) p.1 p.2 >>= xswitchThree .interrupt := by
  simp only [fullInterrupt, switchRun, bind_assoc]
  rfl

theorem aligned_processVector (id : Word) : Aligned (0x8C + id * 4) := by
  have := id.isLt
  rw [aligned_iff, BitVec.toNat_add, BitVec.toNat_mul, show BitVec.toNat (0x8C : Word) = 0x8C from rfl, four]
  omega

theorem setsContext_setCodes (isc : BitVec 4) (tm : Bool) (et : BitVec 2) : SetsContext (setCodes isc tm et) := fun t =>
  ⟨isc, tm, et, t.regs.pc, rfl⟩

/-- Settles O26. -/
theorem fullInterruptEntry : Obligations.FullInterruptEntry := by
  unfold Obligations.FullInterruptEntry
  refine ⟨fun s hinv hp hi hb hq => ?enters, ?refused⟩
  case enters =>
    intro level id a image saved switched ha
    have number : interruptId { s with phase := .running } = .ok (id, { s with phase := .running }) :=
      interruptId_plain (s := { s with phase := .running }) hp
    have table := load_plain (s := forceKernel true { s with phase := .running }) hp (aligned_processVector id) .systemData
    have entry : onInterrupt { s with phase := .running } =
        switchRun (setCodes 0 false 1) a (forceKernel true { s with phase := .running }) >>= xswitchThree .interrupt := by
      rw [onInterrupt_id number, show pswQie _ = false from hq, if_neg Bool.false_ne_true, fullInterrupt_eq, table]
      rfl
    refine ⟨fun hr clear top => ?_, fun hr clear top => ?_⟩
    · obtain ⟨w, run, done, same⟩ := switch_plain (s := forceKernel true { s with phase := .running }) hinv.1 hp hi hb ha
        (pc := s.regs.pc) (f := setCodes 0 false 1) rfl .interrupt hr clear top
      exact ⟨settle w, takeInterrupt_ends (entry.trans run), done,
        sameMachine_settle (s := s) (p := .running) (k := true) same⟩
    · obtain ⟨w, run, done, ⟨fp, ap, fp', general⟩, r0, r2, same⟩ :=
        switch_blocks (s := forceKernel true { s with phase := .running }) hinv.1 hp hi hb ha
          (pc := s.regs.pc) (f := setCodes 0 false 1) rfl .interrupt hr clear top
      exact ⟨w, takeInterrupt_ends (entry.trans run), done, ap, fp', general, fp, r0, r2, same⟩
  case refused =>
    intro s hbus u k id hid hq
    have entry : onInterrupt u = load .systemData (0x8C + id * 4) k >>= fun p =>
        switchRun (setCodes 0 false 1) p.1 p.2 >>= xswitchThree .interrupt := by
      rw [onInterrupt_id hid, show pswQie u.regs.psw = false from hq, if_neg Bool.false_ne_true, fullInterrupt_eq]
    refine ⟨fun h => takeInterrupt_fails ?_, fun a ha => ?_⟩
    · rw [entry, show load .systemData (0x8C + id * 4) k = .error (.systemData, k) from loadAs_fails (s := k) hbus h _]
      rfl
    · rw [show load .systemData (0x8C + id * 4) k = .ok (a, k) from loadAs_quiet (s := k) hbus ha _] at entry
      have fails : ∀ {x : Exn} {t : State}, switchRun (setCodes 0 false 1) a k = .error (x, t) →
          takeInterrupt s = raise x t := fun h => takeInterrupt_fails (entry.trans (by
        show (switchRun (setCodes 0 false 1) a k >>= _) = _
        rw [h]; rfl))
      obtain ⟨push, save, read⟩ := switchRun_refused (s := k) hbus rfl (setsContext_setCodes 0 false 1) a
      exact ⟨fun h => fails (push h), fun w h => (save w h).imp fun _ => fails, fun w g h => (read w g h).imp fun _ => fails⟩

/-! ## CALLPS -/

/-- The PC and the codes of the PSW that CALLPS saves (46_operating_system R479). -/
def callerContext (s : State) : State := setCodes 0 false 1 (setReg .pc (s.regs.pc + 2) s)

theorem setsContext_callerContext : SetsContext callerContext := fun t => ⟨0, false, 1, t.regs.pc + 2, rfl⟩

theorem exec_callps {s : State} (hk : isKernel s = true) :
    exec .callps s = conclude (switchRun callerContext s.regs.r0 (forceKernel true s) >>= xswitchThree .callps) := by
  show execCallps s = _
  simp only [execCallps, requireKernel, hk, if_true, switchRun, bind_assoc]
  rfl

/-- Settles O56. -/
theorem callProcess : Obligations.CallProcess := by
  unfold Obligations.CallProcess
  refine ⟨fun s hinv hrun hp hk hi hb => ?switches, ?refused⟩
  case switches =>
    intro a image saved switched ha
    have released := released_of_running hinv hrun
    have context : callerContext (pcbpPushed (forceKernel true s)) =
        setCodes 0 false 1 (setReg .pc (s.regs.pc + 2) (pcbpPushed (forceKernel true s))) := rfl
    refine ⟨fun hr clear top => ?_, fun hr clear top => ?_⟩
    · obtain ⟨w, run, done, same⟩ := switch_plain (s := forceKernel true s) hinv.1 hp hi hb ha context .callps hr clear top
      refine ⟨jumped { forceKernel false w with phase := .running }, ?_, done, ⟨same.1, released.symm, hrun.symm, same.4,
        same.5, same.6, same.7, same.8, same.9, same.10, same.11, same.12⟩⟩
      rw [exec_callps hk, run]
      rfl
    · obtain ⟨w, run, done, ⟨fp, ap, fp', general⟩, r0, r2, same⟩ :=
        switch_blocks (s := forceKernel true s) hinv.1 hp hi hb ha context .callps hr clear top
      refine ⟨w, ?_, done, ap, fp', general, fp, r0, r2, same⟩
      rw [exec_callps hk, run]
      rfl
  case refused =>
    intro s hbus hk k
    have fails : ∀ {x : Exn} {t : State}, switchRun callerContext s.regs.r0 k = .error (x, t) →
        exec .callps s = .next (fault x t) := fun h => by
      rw [exec_callps hk, show forceKernel true s = k from rfl, h]
      rfl
    obtain ⟨push, save, read⟩ := switchRun_refused (s := k) hbus rfl setsContext_callerContext s.regs.r0
    exact ⟨fun h => fails (push h), fun w h => (save w h).imp fun _ => fails, fun w g h => (read w g h).imp fun _ => fails⟩

/-! ## RETPS -/

theorem pswR_codes (isc : BitVec 4) (tm : Bool) (et : BitVec 2) (w : Word) :
    pswR (withCodes isc tm et w &&& maskPsw) = pswR w := by
  rw [pswR, pswR, BitVec.getLsbD_and, withCodes, getLsbD_merge _ _ _ (by decide)]
  simp [maskCodes, maskPsw]

/-- The first size word cannot be read (46_operating_system R482). -/
theorem xswitchThree_refused {s : State} (hb : s.bus = []) (hr : pswR s.regs.psw = true)
    (h : Unreadable s (s.regs.pcbp + 64)) (o : Switch) : ∃ t, xswitchThree o s = .error (.newPcb, t) := by
  have alike : Alike s (setReg .r0 (s.regs.pcbp + 64) s) := (Alike.refl hb).setReg (by decide) _
  obtain ⟨-, size⟩ | ⟨hn, -⟩ := alike.load .newPcb (s.regs.pcbp + 64)
  · refine ⟨setReg .r0 (s.regs.pcbp + 64) s, ?_⟩
    rw [xswitchThree, if_pos hr, nextBlock]
    show (load .newPcb (s.regs.pcbp + 64) _ >>= _) = _
    rw [size]
    rfl
  · exact absurd h hn

theorem endSwitch_retps {s : State} (hr : pswR s.regs.psw = false) :
    endSwitch .retps s = .ok (complete false (jumped { forceKernel false s with phase := .running })) := by
  rw [endSwitch, hr, if_neg Bool.false_ne_true]
  rfl

/-- RETPS with ISP moved and the R of the new PSW in place (46_operating_system R480). -/
def returnStart (image : Word) (s : State) : State := setPsw (withR (pswR image) s.regs.psw) s

/-- What RETPS does from the pop on (46_operating_system R480). -/
def returnRun (s : State) : Run State := do
  let (a, s) ← load .interruptStack s.regs.isp s
  let (image, s) ← load .oldPcb a s
  let s ← xswitchTwo a .newPcb (returnStart image s)
  xswitchThree .retps (setCodes 7 false 3 s)

theorem exec_retps {s : State} (hk : isKernel s = true) :
    exec .retps s = conclude (returnRun (forceKernel true (setReg .isp (s.regs.isp - 4) s))) := by
  show execRetps s = _
  simp only [execRetps, requireKernel, hk, if_true]
  rfl

/-- The process loaded, in a plain state. -/
theorem returnRun_plain {s : State} (hp : Plain s) (hi : Aligned s.regs.isp) {a : Word} (ha : a = wordAt s s.regs.isp)
    (haligned : Aligned a) :
    let image := wordAt s a
    ∃ w, returnRun s = xswitchThree .retps w ∧ w.regs.psw = processPsw (pswR image) 0x3B image ∧
      w.regs.pc = wordAt s (a + 4) ∧ w.regs.sp = wordAt s (a + 8) ∧ w.regs.pcbp = processPcbp a image ∧
      OnlyRegs [.psw, .pc, .sp, .pcbp] s w ∧ Flushed image s w ∧ SameMemory s w ∧ SameMachine s w := by
  intro image
  have top := load_plain hp hi .interruptStack
  have first := load_plain hp haligned .oldPcb
  obtain ⟨w, run, psw, pc, sp, pcbp, regs, mem, -, flushed, same⟩ :=
    xswitchTwo_plain (s := returnStart image s) hp haligned .newPcb
  change w.regs.psw = switchedPsw image (returnStart image s).regs.psw at psw
  refine ⟨setCodes 7 false 3 w, ?_, ?_, pc, sp, pcbp, ?_, flushed, fun x => congrArg (peek · x) mem,
    (sameMachine_setReg .psw _ _).trans (same.trans (sameMachine_setReg .psw _ _))⟩
  · simp only [returnRun, top, ← ha, first, bind, Except.bind]
    rw [show wordAt s a = image from rfl, run]
  · show withCodes 7 false 3 w.regs.psw &&& maskPsw = _
    rw [psw, processPsw_of_switched, returnStart, setPsw_psw, pswR_withR]
    rfl
  · have first : OnlyRegs [.psw] s (returnStart image s) := fun r hr => by
      rw [returnStart, reg_setPsw, if_neg (List.ne_of_not_mem_cons hr)]
    exact ((first.trans regs).trans (onlyRegs_setCodes 7 false 3 w)).mono (by decide)

/-- What RETPS raises from the pop on where an access is refused (46_operating_system R482). -/
theorem returnRun_refused {s : State} (hb : s.bus = []) (hk : s.kernelForced = true) :
    (Unreadable s s.regs.isp → returnRun s = .error (.interruptStack, s)) ∧
      ∀ a, memRead s .operandFetch .word s.regs.isp = some a →
        (Unreadable s a → returnRun s = .error (.oldPcb, s)) ∧
        ∀ image, memRead s .operandFetch .word a = some image →
          (Unreadable s (a + 4) ∨ Unreadable s (a + 8) → ∃ t, returnRun s = .error (.newPcb, t)) ∧
          (¬Unreadable s (a + 4) → ¬Unreadable s (a + 8) → pswR image = true →
            Unreadable s (processPcbp a image + 64) → ∃ t, returnRun s = .error (.newPcb, t)) := by
  refine ⟨fun h => ?_, fun a ha => ⟨fun h => ?_, fun image himage => ?_⟩⟩
  · have top : load .interruptStack s.regs.isp s = .error (.interruptStack, s) := loadAs_fails hb h _
    simp only [returnRun, top, bind, Except.bind]
  · have top : load .interruptStack s.regs.isp s = .ok (a, s) := loadAs_quiet hb ha _
    have first : load .oldPcb a s = .error (.oldPcb, s) := loadAs_fails hb h _
    simp only [returnRun, top, first, bind, Except.bind]
  have top : load .interruptStack s.regs.isp s = .ok (a, s) := loadAs_quiet hb ha _
  have first : load .oldPcb a s = .ok (image, s) := loadAs_quiet hb himage _
  have onward : returnRun s = xswitchTwo a .newPcb (returnStart image s) >>= fun w =>
      xswitchThree .retps (setCodes 7 false 3 w) := by
    simp only [returnRun, top, first, bind, Except.bind]
  have alike : Alike s (returnStart image s) := (Alike.refl hb).setPsw hk _
  rw [onward]
  obtain ⟨u, run, -, -⟩ | ⟨v, p, run, valike, vforced, readable, vr, hp, vpcbp⟩ := xswitchTwo_reach alike hk a .newPcb
  · rw [run]
    exact ⟨fun _ => ⟨u, rfl⟩, fun _ _ _ _ => ⟨u, rfl⟩⟩
  · rw [run]
    refine ⟨fun h => absurd ?_ readable, fun _ _ hr h => ?_⟩
    · exact h.elim (fun h => ⟨_, by simp, h⟩) fun h => ⟨_, by simp, h⟩
    · have himage' : received s.mem .word p = image := by
        rw [memRead, hp] at himage
        exact Option.some.inj himage
      rw [show (returnStart image s).mem = s.mem from rfl, himage'] at vpcbp
      refine xswitchThree_refused (s := setCodes 7 false 3 v) valike.bus ?_ ?_ .retps
      · exact (pswR_codes 7 false 3 v.regs.psw).trans (vr.trans ((pswR_withR _ _).trans hr))
      · rw [(valike.setCodes 7 false 3).unreadable]
        exact vpcbp ▸ h

/-- Settles O57. -/
theorem returnToProcess : Obligations.ReturnToProcess := by
  unfold Obligations.ReturnToProcess
  refine ⟨fun s hinv hrun hp hk hi => ?returns, ?refused⟩
  case returns =>
    intro a image ha switched
    have released := released_of_running hinv hrun
    have popped : OnlyRegs [.isp] s (forceKernel true (setReg .isp (s.regs.isp - 4) s)) := fun r hr =>
      reg_setReg_ne (List.ne_of_not_mem_cons hr) _ _
    obtain ⟨w, run, psw, pc, sp, pcbp, regs, flushed, mem, same⟩ := returnRun_plain
      (s := forceKernel true (setReg .isp (s.regs.isp - 4) s)) hp (hi.sub (k := 4) rfl) rfl ha
    have isp : w.regs.isp = s.regs.isp - 4 := regs .isp (by decide)
    have wregs := popped.trans regs
    have wsame : SameMachine { s with kernelForced := true } w :=
      ((sameMachine_setReg .isp (s.regs.isp - 4) s).forced true).trans same
    refine ⟨fun hr => ?_, fun hr => ?_⟩
    · refine ⟨jumped { forceKernel false w with phase := .running }, ?_,
        ⟨psw.trans (congrArg (processPsw · _ _) hr), pc, sp, pcbp, isp, wregs.mono (by decide), flushed, mem⟩,
        ⟨wsame.1, released.symm, hrun.symm, wsame.4, wsame.5, wsame.6, wsame.7, wsame.8, wsame.9, wsame.10, wsame.11,
          wsame.12⟩⟩
      rw [exec_retps hk, run, xswitchThree_ends (by rw [psw, pswR_processPsw]; exact hr), endSwitch_retps
        (by rw [psw, pswR_processPsw]; exact hr)]
      rfl
    · have plain : Plain w := ⟨wsame.virtualMode.trans hp.1, (congrArg Inputs.replies wsame.inputs).trans hp.2.1,
        wsame.bus.trans hp.2.2⟩
      have blocks := xswitchThree_blocks plain (pcbp ▸ aligned_processPcbp ha _)
        (by rw [psw, pswR_processPsw]; exact hr) .retps
      refine ⟨blocksBegun .retps w, ?_, ⟨psw.trans (congrArg (processPsw · _ _) hr), pc, sp, pcbp, isp,
        (wregs.trans (onlyRegs_blocksBegun .retps w)).mono (by decide), flushed, mem⟩, congrArg (· + 68) pcbp, ?_,
        ⟨wsame.1, wsame.2, rfl, wsame.4, wsame.5, wsame.6, wsame.7, wsame.8, wsame.9, wsame.10, wsame.11, wsame.12⟩⟩
      · rw [exec_retps hk, run, blocks]
        rfl
      · show wordAt w (w.regs.pcbp + 64) = _
        rw [pcbp]
        exact readData_congr fun _ _ => mem _
  case refused =>
    intro s hb hk k faults
    have fails : ∀ {x : Exn} {t : State}, returnRun k = .error (x, t) → exec .retps s = .next (fault x t) := fun h => by
      rw [exec_retps hk, show forceKernel true (setReg .isp (s.regs.isp - 4) s) = k from rfl, h]
      rfl
    obtain ⟨top, rest⟩ := returnRun_refused (s := k) hb rfl
    refine ⟨fun h => fails (top h), fun a ha => ⟨fun h => fails ((rest a ha).1 h), fun image himage => ?_⟩⟩
    obtain ⟨words, block⟩ := (rest a ha).2 image himage
    exact ⟨fun h => (words h).imp fun _ => fails, fun h4 h8 hr h => (block h4 h8 hr h).imp fun _ => fails⟩

end Sys2Proof.Machine
end

section
/-! The obligation on the block moves, one step at a time (spec/46_operating_system.md R478). -/

namespace Sys2Proof.Machine

theorem byPhase_moving {s : State} {o : Switch} {copying : Bool} (h : s.phase = .blockMoves o copying) :
    byPhase s = moved o (moveStep o copying s) := by simp only [byPhase, h]

theorem byPhase_moves {s t : State} {o : Switch} {copying : Bool} (h : s.phase = .blockMoves o copying)
    (step : moveStep o copying s = .ok t) : byPhase s = .next t := by rw [byPhase_moving h, step, moved_ok]

theorem byPhase_stops {s t : State} {o : Switch} {copying : Bool} {e : Exn} (h : s.phase = .blockMoves o copying)
    (step : moveStep o copying s = .error (e, t)) :
    byPhase s = .next (if o = .interrupt then raise e t else fault e t) := by
  rw [byPhase_moving h, step, moved_error]

theorem onlyRegs_setReg (r : Reg) (v : Word) (s : State) : OnlyRegs [r] s (setReg r v s) := fun _ hr =>
  reg_setReg_ne (List.ne_of_not_mem_cons hr) _ _

/-! ## The end of RETPS -/

/-- FP, r0 to r8 and AP from the PCB (46_operating_system R480). -/
def loadSaved (s : State) : Run State := do
  let s ← loadRegs .newPcb (s.regs.pcbp + 24) [.fp] s
  let s ← loadRegs .newPcb (s.regs.pcbp + 28) generalRegs s
  loadRegs .newPcb (s.regs.pcbp + 20) [.ap] s

theorem endSwitch_loads {s : State} (hr : pswR s.regs.psw = true) : endSwitch .retps s =
    loadSaved s >>= fun w => .ok (complete false (jumped { forceKernel false w with phase := .running })) := by
  simp only [endSwitch, hr, if_true, loadSaved, bind_assoc]

/-- The registers RETPS loads, in a plain state. -/
theorem loadSaved_plain {s : State} (hp : Plain s) (hb : Aligned s.regs.pcbp) :
    ∃ g, loadSaved s = .ok { s with regs := g } ∧ readReg .ap g = wordAt s (s.regs.pcbp + 20) ∧
      readReg .fp g = wordAt s (s.regs.pcbp + 24) ∧
      (∀ k, k < 9 → readReg (Reg.ofNum (BitVec.ofNat 4 k)) g =
        wordAt s (s.regs.pcbp + 28 + BitVec.ofNat 32 (4 * k))) ∧
      ∀ r ∈ [Reg.psw, .sp, .pcbp, .isp, .pc], readReg r g = reg s r := by
  obtain ⟨g1, run1, keep1, load1⟩ := loadRegs_plain (e := .newPcb) (rs := [.fp]) hp (hb.add (k := 24) rfl) (by decide)
    (by decide)
  have pcbp1 : g1.pcbp = s.regs.pcbp := keep1 .pcbp (by decide)
  obtain ⟨g2, run2, keep2, load2⟩ := loadRegs_plain (e := .newPcb) (rs := generalRegs) (s := { s with regs := g1 }) hp
    (hb.add (k := 28) rfl) (by decide) (by decide)
  have pcbp2 : g2.pcbp = s.regs.pcbp := (keep2 .pcbp (by decide)).trans pcbp1
  obtain ⟨g3, run3, keep3, load3⟩ := loadRegs_plain (e := .newPcb) (rs := [.ap]) (s := { s with regs := g2 }) hp
    (hb.add (k := 20) rfl) (by decide) (by decide)
  have run : loadSaved s = .ok { s with regs := g3 } := by
    simp only [loadSaved, run1, bind, Except.bind, pcbp1, run2, pcbp2, run3]
  have number : ∀ k < 9, generalRegs[k]? = some (Reg.ofNum (BitVec.ofNat 4 k)) := by decide
  have general : ∀ k < 9, Reg.ofNum (BitVec.ofNat 4 k) ∉ [Reg.ap] := by decide
  have others : ∀ r ∈ [Reg.psw, .sp, .pcbp, .isp, .pc], r ∉ [Reg.ap] ∧ r ∉ generalRegs ∧ r ∉ [Reg.fp] := by decide
  refine ⟨g3, run, ?_, ?_, fun k hk => ?_, fun r hr => ?_⟩
  · have := load3 0 .ap rfl
    rwa [Nat.mul_zero, BitVec.ofNat_eq_ofNat, BitVec.add_zero] at this
  · have := load1 0 .fp rfl
    rw [Nat.mul_zero, BitVec.ofNat_eq_ofNat, BitVec.add_zero] at this
    exact (keep3 .fp (by decide)).trans ((keep2 .fp (by decide)).trans this)
  · exact (keep3 _ (general k hk)).trans (load2 k _ (number k hk))
  · obtain ⟨ap, row, fp⟩ := others r hr
    exact (keep3 r ap).trans ((keep2 r row).trans (keep1 r fp))

/-- One of them cannot be read. -/
theorem loadSaved_refused {s w : State} (h : Alike s w) (hp : w.regs.pcbp = s.regs.pcbp)
    (hu : ∃ k ∈ registerPlaces, Unreadable s (pcbWord s k)) : ∃ t, loadSaved w = .error (.newPcb, t) := by
  obtain ⟨u, run1⟩ | ⟨g1, run1, alike1, keep1, read1⟩ := h.loadRegs .newPcb (w.regs.pcbp + 24) (rs := [.fp]) (by decide)
  · exact ⟨u, by simp only [loadSaved, run1, bind, Except.bind]⟩
  have pcbp1 : g1.pcbp = s.regs.pcbp := (keep1 .pcbp (by decide)).trans hp
  obtain ⟨u, run2⟩ | ⟨g2, run2, alike2, keep2, read2⟩ := alike1.loadRegs .newPcb (s.regs.pcbp + 28) (rs := generalRegs)
    (by decide)
  · exact ⟨u, by simp only [loadSaved, run1, bind, Except.bind, pcbp1, run2]⟩
  have pcbp2 : g2.pcbp = s.regs.pcbp := (keep2 .pcbp (by decide)).trans pcbp1
  obtain ⟨u, run3⟩ | ⟨g3, run3, -, -, read3⟩ := alike2.loadRegs .newPcb (s.regs.pcbp + 20) (rs := [.ap]) (by decide)
  · exact ⟨u, by simp only [loadSaved, run1, bind, Except.bind, pcbp1, run2, pcbp2, run3]⟩
  rw [hp] at read1
  have cases : ∀ k ∈ registerPlaces, k = 5 ∨ k = 6 ∨ ∃ j < 9, k = 7 + j := by decide
  obtain ⟨k, hk, unread⟩ := hu
  have place : ∀ base j : Nat, s.regs.pcbp + BitVec.ofNat 32 base + BitVec.ofNat 32 (4 * j) =
      s.regs.pcbp + BitVec.ofNat 32 (base + 4 * j) := fun base j => by rw [BitVec.add_assoc, ← BitVec.ofNat_add]
  refine absurd unread ?_
  obtain rfl | rfl | ⟨j, hj, rfl⟩ := cases k hk
  · rw [pcbWord, show 4 * 5 = 20 + 4 * 0 from rfl, ← place 20 0]
    exact read3 0 (by decide)
  · rw [pcbWord, show 4 * 6 = 24 + 4 * 0 from rfl, ← place 24 0]
    exact read1 0 (by decide)
  · rw [pcbWord, show 4 * (7 + j) = 28 + 4 * j by omega, ← place 28 j]
    exact read2 j hj

/-! ## The obligation -/

/-- Settles O58. -/
theorem blockMoveSteps : Obligations.BlockMoveSteps := by
  unfold Obligations.BlockMoveSteps
  refine ⟨fun s o hi hp ha => ⟨fun h h2 => ?address, fun h h2 ha1 => ?word, fun h h2 => ?next, fun h h2 => ?callps,
    fun h h2 => ?interrupt, fun h h2 hr hb => ?retps⟩, fun s o hb => ?refused⟩
  case address =>
    have step : moveStep o false s = .ok { setReg .r0 (s.regs.r0 + 4) (setReg .r1 (wordAt s s.regs.r0) s) with
        phase := .blockMoves o true } := by
      simp only [moveStep, Bool.false_eq_true, if_false, h2, load_plain hp ha, bind, Except.bind]
    exact ⟨_, byPhase_moves h step, rfl, rfl, ((onlyRegs_setReg .r1 _ s).trans (onlyRegs_setReg .r0 _ _)).mono (by decide),
      fun _ => rfl, ⟨rfl, rfl, rfl, rfl, rfl, rfl, rfl, rfl, rfl, rfl, rfl, rfl⟩⟩
  case word =>
    have write := store_plain hp ha1 .newPcb (wordAt s s.regs.r0)
    have step : moveStep o true s = .ok (setReg .r1 (s.regs.r1 + 4) (setReg .r0 (s.regs.r0 + 4)
        (setReg .r2 (s.regs.r2 - 1) { s with mem := writeData s.mem .word s.regs.r1 (wordAt s s.regs.r0) }))) := by
      simp only [moveStep, if_true, h2, if_false, copyWord, load_plain hp ha, write, bind, Except.bind]
    generalize s.regs.r1 + 4 = y1 at step ⊢
    generalize s.regs.r0 + 4 = y0 at step ⊢
    generalize s.regs.r2 - 1 = y2 at step ⊢
    exact ⟨_, byPhase_moves h step, rfl, rfl, rfl, (((onlyRegs_setReg .r2 _ _).trans (onlyRegs_setReg .r0 _ _)).trans
      (onlyRegs_setReg .r1 _ _)).mono (s := { s with mem := _ }) (by decide), wordsAt_one hi.1 rfl,
      (sameMachine_mem _ s).trans ((sameMachine_setReg _ _ _).trans ((sameMachine_setReg _ _ _).trans
        (sameMachine_setReg _ _ _)))⟩
  case next =>
    have step : moveStep o true s = _ := (if_pos h2).trans (nextBlock_plain hp ha o)
    exact ⟨_, byPhase_moves h step, rfl, rfl, ((onlyRegs_setReg .r2 _ s).trans (onlyRegs_setReg .r0 _ _)).mono (by decide),
      fun _ => rfl, ⟨rfl, rfl, rfl, rfl, rfl, rfl, rfl, rfl, rfl, rfl, rfl, rfl⟩⟩
  case callps =>
    have step : moveStep .callps false s = endSwitch .callps (setReg .r0 (s.regs.r0 + 4) s) := by
      simp only [moveStep, Bool.false_eq_true, if_false, h2, if_true]
    refine ⟨jumped { forceKernel false (setReg .r0 (s.regs.r0 + 4) s) with phase := .running },
      byPhase_moves h step, rfl, onlyRegs_setReg .r0 _ s, fun _ => rfl,
      ⟨rfl, rfl, rfl, rfl, rfl, rfl, rfl, rfl, rfl, rfl, rfl, rfl⟩⟩
  case interrupt =>
    have step : moveStep .interrupt false s = endSwitch .interrupt (setReg .r0 (s.regs.r0 + 4) s) := by
      simp only [moveStep, Bool.false_eq_true, if_false, h2, if_true]
    exact ⟨_, byPhase_moves h step, rfl, onlyRegs_setReg .r0 _ s, fun _ => rfl,
      ⟨rfl, rfl, rfl, rfl, rfl, rfl, rfl, rfl, rfl, rfl, rfl, rfl⟩⟩
  case retps =>
    obtain ⟨g, run, ap, fp, general, others⟩ := loadSaved_plain (s := setReg .r0 (s.regs.r0 + 4) s) hp hb
    have step : moveStep .retps false s = .ok (complete false
        (jumped { forceKernel false { setReg .r0 (s.regs.r0 + 4) s with regs := g } with phase := .running })) := by
      simp only [moveStep, Bool.false_eq_true, if_false, h2, if_true]
      rw [endSwitch_loads (s := setReg .r0 (s.regs.r0 + 4) s) hr, run]
      rfl
    refine ⟨_, byPhase_moves h step, ap, fp, general, fun r hr => (others r hr).trans ?_, fun _ => rfl,
      ⟨rfl, rfl, rfl, rfl, rfl, rfl, rfl, rfl, rfl, rfl, rfl, rfl⟩⟩
    exact onlyRegs_setReg .r0 _ s r (by revert r; decide)
  case refused =>
    intro stops
    have alike : Alike s s := .refl hb
    have unread : Unreadable s s.regs.r0 → load .newPcb s.regs.r0 s = .error (.newPcb, s) := fun h => loadAs_fails hb h _
    refine ⟨fun h h2 hu => byPhase_stops h ?_, fun h h2 hu => byPhase_stops h ?_, fun h h2 hu => byPhase_stops h ?_,
      fun h h2 hr hu => ?_, fun hr hu => xswitchThree_refused hb hr hu o⟩
    · simp only [moveStep, Bool.false_eq_true, if_false, h2, unread hu, bind, Except.bind]
    · simp only [moveStep, if_true, h2, nextBlock, unread hu, bind, Except.bind]
    · have word : copyWord .newPcb s = .error (.newPcb, s) := by
        obtain hu | ⟨hn, hu⟩ := hu
        · simp only [copyWord, unread hu, bind, Except.bind]
        · obtain ⟨g, -⟩ | ⟨-, p, -, read⟩ := alike.load .newPcb s.regs.r0
          · exact absurd g hn
          · have write : store .newPcb s.regs.r1 (received s.mem .word p) s = .error (.newPcb, s) :=
              storeAs_fails hb (hu _) _
            simp only [copyWord, read, write, bind, Except.bind]
      simp only [moveStep, if_true, h2, if_false, word]
    · obtain ⟨t, run⟩ := loadSaved_refused (s := s) (w := setReg .r0 (s.regs.r0 + 4) s)
        (alike.setReg (by decide) _) rfl hu
      refine ⟨t, byPhase_stops h ?_⟩
      simp only [moveStep, Bool.false_eq_true, if_false, h2, if_true]
      rw [endSwitch_loads (s := setReg .r0 (s.regs.r0 + 4) s) hr, run]
      rfl

end Sys2Proof.Machine
end

section
/-! The obligations on the coprocessor instructions (spec/44_coprocessor.md R431 to R447). -/

namespace Sys2Proof.Machine

/-! ## The broadcast and the source words -/

/-- The state once the coprocessor saw the command word and the words ws (44_coprocessor R431, R432). -/
def seenBy (word : Word) (ws : List Word) (s : State) : State :=
  { s with copBus := ws.reverse.map CopEvent.operand ++ (.broadcast word :: s.copBus) }

/-- What every coprocessor instruction does once its addresses are formed: n source words at a, k result words at b. -/
def copRun (word : Word) (n : Nat) (a b : Word) (k len : Nat) (s : State) : Run State := do
  let s ← broadcast word s
  let s ← copFetch n a s
  copFinish b k len s

theorem copRun_absent {s : State} (hb : s.bus = []) (h : s.inputs.cop.ack = false) (word : Word) (n : Nat) (a b : Word)
    (k len : Nat) : copRun word n a b k len s = .error (.externalMemory, s) := by
  simp only [copRun, broadcast, busTurn_quiet hb, h, Bool.false_eq_true, if_false, bind, Except.bind]

/-- Words that can be read are latched one after the other. -/
theorem copFetch_words {t : State} (hb : t.bus = []) {a : Word} {ws : List Word} (m : Nat)
    (hw : ∀ j, j < ws.length → memRead t .copFetch .word (a + BitVec.ofNat 32 (4 * j)) = ws[j]?) :
    copFetch (ws.length + m) a t =
      copFetch m (a + BitVec.ofNat 32 (4 * ws.length)) { t with copBus := ws.reverse.map CopEvent.operand ++ t.copBus } := by
  induction ws generalizing a t with
  | nil =>
    rw [List.length_nil, Nat.zero_add, Nat.mul_zero, BitVec.add_zero]
    rfl
  | cons w ws ih =>
    have first := hw 0 (Nat.zero_lt_succ _)
    rw [Nat.mul_zero, BitVec.add_zero, List.getElem?_cons_zero] at first
    have rest : ∀ j, j < ws.length → memRead t .copFetch .word (a + 4 + BitVec.ofNat 32 (4 * j)) = ws[j]? := fun j hj => by
      rw [row_succ]; exact hw (j + 1) (Nat.succ_lt_succ hj)
    rw [List.length_cons, Nat.succ_add, copFetch, loadAs_quiet hb first]
    show copFetch (ws.length + m) (a + 4) { t with copBus := .operand w :: t.copBus } = _
    rw [ih (t := { t with copBus := .operand w :: t.copBus }) hb rest, row_succ, List.reverse_cons, List.map_append,
      List.append_assoc]
    rfl

theorem copRun_acknowledged {s : State} (hb : s.bus = []) (ha : s.inputs.cop.ack = true) (word : Word) {ws : List Word}
    {a : Word} (hw : ∀ j, j < ws.length → memRead s .copFetch .word (a + BitVec.ofNat 32 (4 * j)) = ws[j]?) (m : Nat)
    (b : Word) (k len : Nat) :
    copRun word (ws.length + m) a b k len s =
      copFetch m (a + BitVec.ofNat 32 (4 * ws.length)) (seenBy word ws s) >>= copFinish b k len := by
  simp only [copRun, broadcast, busTurn_quiet hb, ha, if_true, bind, Except.bind]
  rw [copFetch_words (t := { s with copBus := .broadcast word :: s.copBus }) hb m hw]
  rfl

theorem copRun_fetched {s : State} (hb : s.bus = []) (ha : s.inputs.cop.ack = true) (word : Word) {ws : List Word} {n : Nat}
    {a : Word} (hn : ws.length = n)
    (hw : ∀ j, j < ws.length → memRead s .copFetch .word (a + BitVec.ofNat 32 (4 * j)) = ws[j]?) (b : Word) (k len : Nat) :
    copRun word n a b k len s = copFinish b k len (seenBy word ws s) := by
  subst hn
  exact copRun_acknowledged hb ha word hw 0 b k len

theorem copRun_unfetched {s : State} (hb : s.bus = []) (ha : s.inputs.cop.ack = true) (word : Word) {ws : List Word}
    {n : Nat} {a : Word} (hn : ws.length < n)
    (hw : ∀ j, j < ws.length → memRead s .copFetch .word (a + BitVec.ofNat 32 (4 * j)) = ws[j]?)
    (hnone : memRead s .copFetch .word (a + BitVec.ofNat 32 (4 * ws.length)) = none) (b : Word) (k len : Nat) :
    copRun word n a b k len s = .error (.externalMemory, seenBy word ws s) := by
  obtain ⟨m, rfl⟩ : ∃ m, n = ws.length + (m + 1) := ⟨n - ws.length - 1, by omega⟩
  have fails : memRead (seenBy word ws s) .copFetch .word (a + BitVec.ofNat 32 (4 * ws.length)) = none := hnone
  rw [copRun_acknowledged hb ha word hw (m + 1) b k len, copFetch, loadAs_fails (s := seenBy word ws s) hb fails]
  rfl

/-- The words of a source in a plain state. -/
def wordsFrom (s : State) (a : Word) (n : Nat) : List Word :=
  (List.range n).map fun j => wordAt s (a + BitVec.ofNat 32 (4 * j))

theorem memRead_wordsFrom {s : State} (hp : Plain s) {a : Word} (ha : Aligned a) (n : Nat) :
    ∀ j, j < (wordsFrom s a n).length →
      memRead s .copFetch .word (a + BitVec.ofNat 32 (4 * j)) = (wordsFrom s a n)[j]? := by
  intro j hj
  rw [wordsFrom, List.length_map, List.length_range] at hj
  rw [wordsFrom, List.getElem?_map, List.getElem?_range hj]
  exact memRead_plain hp (ha.add (aligned_step j))

theorem seenBy_wordsFrom (word : Word) (s : State) (a : Word) (n : Nat) :
    (wordsFrom s a n).reverse.map CopEvent.operand ++ (.broadcast word :: s.copBus) =
      ((List.range n).reverse.map fun j => CopEvent.operand (wordAt s (a + BitVec.ofNat 32 (4 * j)))) ++
        (.broadcast word :: s.copBus) := by
  rw [wordsFrom, ← List.map_reverse, List.map_map]
  rfl

/-! ## The status and the result words -/

theorem copFinish_busy {s : State} (h : s.inputs.cop.done = false) (b : Word) (k len : Nat) :
    copFinish b k len s = .ok { s with phase := .coprocessor b k len } := by
  simp only [copFinish, h, Bool.false_eq_true, if_false]

theorem copFinish_faulted {s : State} (hb : s.bus = []) (h : s.inputs.cop.done = true)
    (hf : s.inputs.cop.statusFault = true) (b : Word) (k len : Nat) :
    copFinish b k len s = .error (.externalMemory, s) := by
  simp only [copFinish, h, if_true, copStatus, busTurn_quiet hb, hf, bind, Except.bind]

/-- The words a coprocessor drives (44_coprocessor R435). -/
def driven (s : State) (k : Nat) : List Word := [s.inputs.cop.d0, s.inputs.cop.d1, s.inputs.cop.d2].take k

theorem copFinish_done {s : State} (hb : s.bus = []) (h : s.inputs.cop.done = true)
    (hf : s.inputs.cop.statusFault = false) (b : Word) (k len : Nat) :
    copFinish b k len s = copWrite b (driven s k) (setFlags (pswFlags s.inputs.cop.status) s) >>= fun w =>
      .ok (complete false (advance len { w with phase := .running })) := by
  have status : copStatus s = .ok (setFlags (pswFlags s.inputs.cop.status) s) := by
    simp only [copStatus, busTurn_quiet hb, bind, Except.bind, hf, Bool.false_eq_true, if_false]
  simp only [copFinish, h, if_true, status]
  rfl

theorem copWrite_plain {s : State} (hp : Plain s) {b : Word} (hb : Aligned b) (vs : List Word) :
    copWrite b vs s = storeWords .externalMemory b vs s := by
  induction vs generalizing b s with
  | nil => rfl
  | cons v rest ih =>
    have write : storeAs .copWrite .word .externalMemory b v s = .ok { s with mem := writeData s.mem .word b v } :=
      storeAs_quiet hp.2.2 (writeReach_plain hp hb _) _
    simp only [copWrite, write, bind, Except.bind]
    rw [ih (s := { s with mem := writeData s.mem .word b v }) hp (hb.add (k := 4) rfl), storeWords_cons_plain hp hb]

/-- The state once the result is stored: m is memory. -/
def copDone (f : BitVec 4) (m : Memory) (len : Nat) (s : State) : State :=
  advance len { setFlags f s with mem := m, phase := .running }

theorem copDone_left {s : State} (hpsw : s.regs.psw &&& 0xFC000000 = 0) (f : BitVec 4) (m : Memory) (len : Nat) :
    let w := copDone f m len s
    SameMachine { s with phase := .running } w ∧ GoesOn len s w ∧ RegsBut [] s w ∧ FlagsAre false f s w := by
  refine ⟨⟨rfl, rfl, rfl, rfl, rfl, rfl, rfl, rfl, rfl, rfl, rfl, rfl⟩, ⟨rfl, rfl, rfl, rfl, rfl⟩, fun r _ hpc hq => ?_,
    flagsAre_setFlags hpsw f false⟩
  rw [copDone, reg_advance, if_neg hpc]
  exact reg_setFlags_ne hq f s

theorem copFinish_plain {s : State} (hw : s.mem.wf = true) (hp : Plain s) (h : s.inputs.cop.done = true) (hf : s.inputs.cop.statusFault = false) {b : Word} {k : Nat} (hb : k = 0 ∨ Aligned b)
    (len : Nat) :
    ∃ m, copFinish b k len s = .ok (complete false (copDone (pswFlags s.inputs.cop.status) m len s)) ∧
      WordsAt b (driven s k) s (copDone (pswFlags s.inputs.cop.status) m len s) := by
  rw [copFinish_done hp.2.2 h hf]
  obtain rfl | hb := hb
  · exact ⟨s.mem, rfl, fun j hj => absurd hj (Nat.not_lt_zero j), fun _ _ => rfl⟩
  · have short : (driven s k).length ≤ 3 := List.length_take_le' k _
    obtain ⟨m, run, -, words⟩ := storeWords_plain (e := .externalMemory) (s := setFlags (pswFlags s.inputs.cop.status) s) hp
      hw hb (vs := driven s k) (by omega)
    rw [copWrite_plain (s := setFlags (pswFlags s.inputs.cop.status) s) hp hb, run]
    exact ⟨m, rfl, words⟩

/-! ## The ten instructions -/

/-- i is a coprocessor instruction with n source words at a and k result words at b, its addresses formed. -/
def CopRuns (i : Instr) (word : Word) (n : Nat) (a b : Word) (k : Nat) (s : State) : Prop :=
  exec i s = conclude (copRun word n a b k (encode i).length s)

theorem copRuns_plain (word : Word) (s : State) : CopRuns (.spop word) word 0 0 0 0 s := rfl

theorem length_copOne (c : Byte) (word : Word) (x : Operand) :
    (c :: (encodeWord word ++ x.encode)).length = 5 + x.length := by
  rw [List.length_cons, List.length_append, Operand.encode_length, encodeWord_length]
  omega

theorem length_copTwo (c : Byte) (word : Word) (x y : Operand) :
    (c :: (encodeWord word ++ x.encode ++ y.encode)).length = 5 + x.length + y.length := by
  rw [List.length_cons, List.length_append, List.length_append, Operand.encode_length, Operand.encode_length,
    encodeWord_length]
  omega

theorem copRead_forms (word : Word) (src : Operand) (s : State) :
    ∀ e ∈ [(Instr.spoprs, 1), (.spoprd, 2), (.spoprt, 3)],
      exec (e.1 word src) s = copRead e.2 word src s ∧ (encode (e.1 word src)).length = 5 + src.length := by
  simp only [List.forall_mem_cons, List.not_mem_nil, false_imp_iff, implies_true, and_true]
  exact ⟨⟨rfl, length_copOne _ _ _⟩, ⟨rfl, length_copOne _ _ _⟩, rfl, length_copOne _ _ _⟩

theorem copStore_forms (word : Word) (dst : Operand) (s : State) :
    ∀ e ∈ [(Instr.spopws, 1), (.spopwd, 2), (.spopwt, 3)],
      exec (e.1 word dst) s = copStore e.2 word dst s ∧ (encode (e.1 word dst)).length = 5 + dst.length := by
  simp only [List.forall_mem_cons, List.not_mem_nil, false_imp_iff, implies_true, and_true]
  exact ⟨⟨rfl, length_copOne _ _ _⟩, ⟨rfl, length_copOne _ _ _⟩, rfl, length_copOne _ _ _⟩

theorem copBoth_forms (word : Word) (src dst : Operand) (s : State) :
    ∀ e ∈ [(Instr.spops2, 1), (.spopd2, 2), (.spopt2, 3)],
      exec (e.1 word src dst) s = copBoth e.2 word src dst s ∧
        (encode (e.1 word src dst)).length = 5 + src.length + dst.length := by
  simp only [List.forall_mem_cons, List.not_mem_nil, false_imp_iff, implies_true, and_true]
  exact ⟨⟨rfl, length_copTwo _ _ _ _⟩, ⟨rfl, length_copTwo _ _ _ _⟩, rfl, length_copTwo _ _ _ _⟩

theorem copRuns_read {e : (Word → Operand → Instr) × Nat} (he : e ∈ [(Instr.spoprs, 1), (.spoprd, 2), (.spoprt, 3)])
    (word : Word) {src : Operand} {a : Word} {s : State} (h : AddressIs .addrPlain src s a) :
    CopRuns (e.1 word src) word e.2 a 0 0 s := by
  obtain ⟨wf, address⟩ := h
  obtain ⟨form, length⟩ := copRead_forms word src s e he
  have operands := checkOperands_ok (os := [(.addrPlain, src)]) (s := s) (by simpa using wf)
  rw [CopRuns, form, length]
  simp only [copRead, operands, address, copRun, bind, Except.bind]

theorem copRuns_store {e : (Word → Operand → Instr) × Nat} (he : e ∈ [(Instr.spopws, 1), (.spopwd, 2), (.spopwt, 3)])
    (word : Word) {dst : Operand} {b : Word} {s : State} (h : AddressIs .addrPlain dst s b) :
    CopRuns (e.1 word dst) word 0 0 b e.2 s := by
  obtain ⟨wf, address⟩ := h
  obtain ⟨form, length⟩ := copStore_forms word dst s e he
  have operands := checkOperands_ok (os := [(.addrPlain, dst)]) (s := s) (by simpa using wf)
  rw [CopRuns, form, length]
  simp only [copStore, operands, address, copRun, copFetch, bind, Except.bind]

theorem copRuns_both {e : (Word → Operand → Operand → Instr) × Nat}
    (he : e ∈ [(Instr.spops2, 1), (.spopd2, 2), (.spopt2, 3)]) (word : Word) {src dst : Operand} {a b : Word} {s : State}
    (ha : AddressIs .addrPlain src s a) (hb : AddressIs .addrPlain dst s b) :
    CopRuns (e.1 word src dst) word e.2 a b e.2 s := by
  obtain ⟨wa, address⟩ := ha
  obtain ⟨wb, address'⟩ := hb
  obtain ⟨form, length⟩ := copBoth_forms word src dst s e he
  have operands := checkOperands_ok (os := [(.addrPlain, src), (.addrPlain, dst)]) (s := s) (by simp [wa, wb])
  rw [CopRuns, form, length]
  simp only [copBoth, operands, address, address', copRun, bind, Except.bind]

/-! ## An answer at once -/

theorem inv_psw {s : State} (h : s.Inv) : s.regs.psw &&& 0xFC000000 = 0 := h.2.1

/-- A coprocessor instruction whose coprocessor answers (44_coprocessor R431 to R435). -/
theorem CopRuns.answered {i : Instr} {word a b : Word} {n k : Nat} {s : State} (h : CopRuns i word n a b k s)
    (hi : s.Inv) (hp : Plain s) (hack : s.inputs.cop.ack = true) (hdone : s.inputs.cop.done = true)
    (hf : s.inputs.cop.statusFault = false) (ha : n = 0 ∨ Aligned a) (hb : k = 0 ∨ Aligned b) :
    let seen := (List.range n).reverse.map fun j => CopEvent.operand (wordAt s (a + BitVec.ofNat 32 (4 * j)))
    ∃ w, exec i s = .next (complete false w) ∧
      SameMachine { s with phase := .running, copBus := seen ++ (.broadcast word :: s.copBus) } w ∧
      GoesOn (encode i).length s w ∧ RegsBut [] s w ∧ FlagsAre false (pswFlags s.inputs.cop.status) s w ∧
      WordsAt b ([s.inputs.cop.d0, s.inputs.cop.d1, s.inputs.cop.d2].take k) s w := by
  intro seen
  have reads : ∀ j, j < (wordsFrom s a n).length →
      memRead s .copFetch .word (a + BitVec.ofNat 32 (4 * j)) = (wordsFrom s a n)[j]? := by
    obtain rfl | ha := ha
    · exact fun j hj => absurd hj (Nat.not_lt_zero j)
    · exact memRead_wordsFrom hp ha n
  obtain ⟨m, run, words⟩ := copFinish_plain (s := seenBy word (wordsFrom s a n) s) hi.1 hp hdone hf hb (encode i).length
  obtain ⟨same, goes, regs, fl⟩ := copDone_left (s := seenBy word (wordsFrom s a n) s) (inv_psw hi)
    (pswFlags s.inputs.cop.status) m (encode i).length
  refine ⟨_, ?_, seenBy_wordsFrom word s a n ▸ same, ⟨goes.1, goes.2, goes.3, goes.4, goes.5⟩, regs, fl, words⟩
  rw [h, copRun_fetched hp.2.2 hack word (by rw [wordsFrom, List.length_map, List.length_range]) reads]
  exact conclude_ok run

/-- Settles O49. -/
theorem coprocessorResult : Obligations.CoprocessorResult := by
  unfold Obligations.CoprocessorResult
  intro word s hi hp hack hdone hf effect
  exact ⟨(copRuns_plain word s).answered hi hp hack hdone hf (.inl rfl) (.inl rfl),
    fun e he src a ha hal => (copRuns_read he word ha).answered hi hp hack hdone hf (.inr hal) (.inl rfl),
    fun e he dst b hb hal => (copRuns_store he word hb).answered hi hp hack hdone hf (.inl rfl) (.inr hal),
    fun e he src dst a b ha hb hala halb =>
      (copRuns_both he word ha hb).answered hi hp hack hdone hf (.inr hala) (.inr halb)⟩

/-! ## No answer, the wait, and refused accesses -/

/-- Words behind those that reached a place are not written. -/
theorem landed_take {k : Nat} {qs : List Reached} (h : qs.length ≤ k) (m : Memory) (vs : List Word) :
    landed m (vs.take k) qs = landed m vs qs := by
  induction vs generalizing k qs m with
  | nil => rw [List.take_nil]
  | cons v vs ih =>
    cases qs with
    | nil => cases k <;> rfl
    | cons q qs =>
      cases k with
      | zero => cases h
      | succ k => exact ih (Nat.le_of_succ_le_succ h) _

/-- The first result word that cannot be written ends the instruction, with the flags set and the words before it written
(44_coprocessor R435). -/
theorem copFinish_unwritten {t : State} (hw : t.mem.wf = true) (hbus : t.bus = []) (hdone : t.inputs.cop.done = true)
    (hf : t.inputs.cop.statusFault = false) {b : Word} {k len : Nat} {qs : List Reached} (hk : qs.length < k)
    (h3 : qs.length < 3) :
    let words := [t.inputs.cop.d0, t.inputs.cop.d1, t.inputs.cop.d2]
    let reach := fun (j : Nat) => writeReach t .copWrite .word (b + BitVec.ofNat 32 (4 * j)) (words.getD j 0)
    (∀ i, i < qs.length → reach i = qs[i]?) → reach qs.length = none →
    let m := landed t.mem words qs
    copFinish b k len t = .error (.externalMemory, { setFlags (pswFlags t.inputs.cop.status) t with mem := m }) ∧
      (∀ x, (∀ a, .memory a ∈ qs → ¬covers .word a x) → peek m x = peek t.mem x) ∧
      ((∀ i, i < qs.length → reach i = some (.memory (b + BitVec.ofNat 32 (4 * i)))) →
        ∀ i, i < qs.length → readData m .word (b + BitVec.ofNat 32 (4 * i)) = words.getD i 0) := by
  intro words reach reached none m
  have word : ∀ i, i ≤ qs.length → (driven t k).getD i 0 = words.getD i 0 := fun i hi => by
    rw [driven, List.getD_eq_getElem?_getD, List.getElem?_take_of_lt (by omega), ← List.getD_eq_getElem?_getD]
  have length : qs.length < (driven t k).length := by
    rw [driven, List.length_take]
    exact lt_min hk h3
  refine ⟨?_, fun x hx => peek_landed hw words hx, fun places => ?_⟩
  · rw [copFinish_done hbus hdone hf, copWrite_refused (s := setFlags (pswFlags t.inputs.cop.status) t) hbus qs length
      (fun i hi => by rw [writeReach_setFlags, word i (Nat.le_of_lt hi)]; exact reached i hi)
      (by rw [writeReach_setFlags, word _ (Nat.le_refl _)]; exact none), driven, landed_take (Nat.le_of_lt hk)]
    rfl
  · exact readData_landed hw (Nat.le_of_lt h3) (by omega) fun i hi => (reached i hi).symm.trans (places i hi)

theorem conclude_error {r : Run State} {e : Exn} {s : State} (h : r = .error (e, s)) : conclude r = .next (fault e s) := by
  rw [h, conclude]

/-- The processor waits while the coprocessor is not done (44_coprocessor R433). -/
theorem CopRuns.busy {i : Instr} {word a b : Word} {n k : Nat} {s : State} (h : CopRuns i word n a b k s) (hp : Plain s)
    (ha : Aligned a) (hack : s.inputs.cop.ack = true) (hdone : s.inputs.cop.done = false) :
    exec i s = .next { s with
      phase := .coprocessor b k (encode i).length
      copBus := ((List.range n).reverse.map fun j => CopEvent.operand (wordAt s (a + BitVec.ofNat 32 (4 * j)))) ++
        (.broadcast word :: s.copBus) } := by
  rw [h, copRun_fetched hp.2.2 hack word (by rw [wordsFrom, List.length_map, List.length_range]) (memRead_wordsFrom hp ha n),
    ← seenBy_wordsFrom]
  exact conclude_ok (copFinish_busy (s := seenBy word (wordsFrom s a n) s) hdone b k _)

/-- An address operand is neither a constant nor a register. -/
theorem wellFormed_address {o : Operand} (h : o.wellFormed .addrPlain = true) :
    o.mode.isConstant = false ∧ o.mode.isRegister = false := by
  simp only [Operand.wellFormed, Bool.and_eq_true, Role.allowsMode, Bool.not_eq_true'] at h
  exact h.1.2

/-- A pointer that cannot be read: the broadcast has not been made (44_coprocessor R436). -/
theorem copOne_pointer {o : Operand} {s t : State} {e : Exn} (wf : o.wellFormed .addrPlain = true)
    (h : effectiveAddress o.mode s = .error (e, t)) (word : Word) (n : Nat) :
    copRead n word o s = .next (fault e t) ∧ copStore n word o s = .next (fault e t) := by
  have operands := checkOperands_ok (os := [(.addrPlain, o)]) (s := s) (by simpa using wf)
  constructor
  · simp only [copRead, operands, h, bind, Except.bind, conclude]
  · simp only [copStore, operands, h, bind, Except.bind, conclude]

theorem copBoth_source {src dst : Operand} {s t : State} {e : Exn} (ws : src.wellFormed .addrPlain = true)
    (wd : dst.wellFormed .addrPlain = true) (h : effectiveAddress src.mode s = .error (e, t)) (word : Word) (n : Nat) :
    copBoth n word src dst s = .next (fault e t) := by
  have operands := checkOperands_ok (os := [(.addrPlain, src), (.addrPlain, dst)]) (s := s) (by simp [ws, wd])
  simp only [copBoth, operands, h, bind, Except.bind, conclude]

theorem copBoth_destination {src dst : Operand} {s t u : State} {e : Exn} {a : Word}
    (ws : src.wellFormed .addrPlain = true) (wd : dst.wellFormed .addrPlain = true)
    (hs : effectiveAddress src.mode u = .ok (a, s)) (h : effectiveAddress dst.mode s = .error (e, t)) (word : Word)
    (n : Nat) : copBoth n word src dst u = .next (fault e t) := by
  have operands := checkOperands_ok (os := [(.addrPlain, src), (.addrPlain, dst)]) (s := u) (by simp [ws, wd])
  simp only [copBoth, operands, hs, h, bind, Except.bind, conclude]

theorem byPhase_coprocessor {s : State} {b : Word} {k len : Nat} (h : s.phase = .coprocessor b k len) :
    byPhase s = conclude (copFinish b k len s) := by simp only [byPhase, h]

/-- Settles O50. -/
theorem coprocessorAbsentOrBusy : Obligations.CoprocessorAbsentOrBusy := by
  unfold Obligations.CoprocessorAbsentOrBusy
  intro refused
  have unwritten : ∀ {s t : State} {b : Word} {k len : Nat} {o : Outcome}, s.mem.wf = true → s.bus = [] →
      s.inputs.cop.done = true → s.inputs.cop.statusFault = false → (∃ ws, t = { s with copBus := ws }) →
      o = conclude (copFinish b k len t) → refused s t b k o := by
    rintro s _ b k len o hw hb hd hf ⟨ws, rfl⟩ rfl j qs hk h3 rfl reached none
    obtain ⟨run, kept, landed⟩ := copFinish_unwritten (t := { s with copBus := ws }) (len := len) hw hb hd hf hk h3 reached none
    exact ⟨conclude_error run, kept, landed⟩
  refine ⟨fun word s hb => ?instructions, fun word o s t e wf h => ?pointers, fun b k len s hi hphase => ?waiting⟩
  case instructions =>
    intro waits
    have all : ∀ {i : Instr} {n k : Nat} {a b : Word}, CopRuns i word n a b k s → waits i n a b k := by
      intro i n k a b h
      refine ⟨fun hack => ?_, fun hp ha hack hd => h.busy hp ha hack hd, fun ws hack hws => ⟨fun hn none => ?_, fun hn hd =>
        ⟨fun hf => ?_, fun hi hf => ?_⟩⟩⟩
      · rw [h]; exact conclude_error (copRun_absent hb hack word n a b k _)
      · rw [h]; exact conclude_error (copRun_unfetched hb hack word hn hws none b k _)
      · rw [h, copRun_fetched hb hack word hn hws]
        exact conclude_error (copFinish_faulted (s := seenBy word ws s) hb hd hf b k _)
      · refine unwritten (len := (encode i).length) hi.1 hb hd hf ⟨_, rfl⟩ ?_
        rw [h, copRun_fetched hb hack word hn hws]
        rfl
    exact ⟨all (copRuns_plain word s), fun e he src a ha => all (copRuns_read he word ha),
      fun e he dst b hd => all (copRuns_store he word hd), fun e he src dst a b ha hd => all (copRuns_both he word ha hd)⟩
  case pointers =>
    obtain ⟨constant, register⟩ := wellFormed_address wf
    have one := copOne_pointer wf h word
    refine ⟨fun hb => effectiveAddress_refused hb constant register h, ?_, ?_⟩ <;>
      simp only [List.forall_mem_cons, List.not_mem_nil, false_imp_iff, implies_true, and_true]
    · exact ⟨(one 1).1, (one 2).1, (one 3).1, (one 1).2, (one 2).2, (one 3).2⟩
    · exact ⟨fun d wd => ⟨copBoth_source wf wd h word 1, fun a u hu => copBoth_destination wd wf hu h word 1⟩,
        fun d wd => ⟨copBoth_source wf wd h word 2, fun a u hu => copBoth_destination wd wf hu h word 2⟩,
        fun d wd => ⟨copBoth_source wf wd h word 3, fun a u hu => copBoth_destination wd wf hu h word 3⟩⟩
  case waiting =>
    refine ⟨fun hd => ?_, fun hd hb hf => ?_, fun hd hf hp h3 hal => ?_, fun hd hf hb => ?_⟩
    · rw [byPhase_coprocessor hphase, copFinish_busy hd, ← hphase]; rfl
    · rw [byPhase_coprocessor hphase]; exact conclude_error (copFinish_faulted hb hd hf b k len)
    · obtain ⟨m, run, words⟩ := copFinish_plain hi.1 hp hd hf hal len
      obtain ⟨same, goes, regs, fl⟩ := copDone_left (s := s) (inv_psw hi) (pswFlags s.inputs.cop.status) m len
      exact ⟨_, (byPhase_coprocessor hphase).trans (conclude_ok run), same, goes, regs, fl, words⟩
    · exact unwritten hi.1 hb hd hf ⟨_, rfl⟩ (byPhase_coprocessor hphase)

end Sys2Proof.Machine
end

section
/-! The memory exceptions of the instructions that are one operation on their operands (spec/20_memory.md R80, R82, R86,
R95). Each of their shapes is the checks, the operand reads of `operandReads`, and an end; what a failed read and a refused
write leave is shown once, of that. -/

namespace Sys2Proof.Machine

/-! ## Checks, operand reads, end -/

/-- The roles of the operands of an instruction. -/
def rolesOf (sources : List Operand) (dst : Option (Operand × Bool)) : List (Role × Operand) :=
  sources.map (Role.src, ·) ++ (dst.map fun d => (Role.dst, d.1)).toList

/-- The privilege of a destination, where there is one. -/
def checkDestination (dst : Option (Operand × Bool)) (s : State) : Run Unit :=
  match dst with
  | none => .ok ()
  | some d => checkPrivilege d.1.mode s

/-- The checks of an instruction, its operand reads, and its end. -/
def operate (cur : OType) (sources : List Operand) (dst : Option (Operand × Bool))
    (ending : List Value × Option Place × State → Run State) (s : State) : Outcome :=
  conclude do
    checkOperands (rolesOf sources dst) s
    checkDestination dst s
    let r ← operandReads cur sources dst s
    ending r

/-- The end of an instruction with a destination: its result goes to the place. -/
def placeResult (t : OType) (pswSource : Bool) (len : Nat) (f : List Value → Result)
    (r : List Value × Option Place × State) : Run State :=
  finish t (r.2.1.getD (.register .r0)) pswSource len (f r.1) r.2.2

theorem ok_bind {α β : Type} (x : α) (f : α → Run β) : ((.ok x : Run α) >>= f) = f x := rfl

theorem ok_of_bind {α β : Type} {r : Run α} {f : α → Run β} {y : β} (h : (r >>= f) = .ok y) :
    ∃ x, r = .ok x ∧ f x = .ok y := by
  cases r with
  | ok x => exact ⟨x, rfl, h⟩
  | error => cases h

/-! The equations of the operand reads, a source first, a destination last (20_memory R95). -/

section
variable (cur : OType) (o : Operand) (rest : List Operand) (dst : Option (Operand × Bool)) (s : State)

theorem operandReads_cons : operandReads cur (o :: rest) dst s = readSource (typeAt cur o) o.mode s >>= fun v =>
    operandReads (typeAt cur o) rest dst v.2 >>= fun r => .ok (v.1 :: r.1, r.2.1, r.2.2) := rfl

theorem operandReads_none : operandReads cur [] none s = .ok ([], none, s) := rfl

theorem operandReads_written : operandReads cur [] (some (o, false)) s = resolve o.mode s >>= fun p =>
    .ok ([], some p.1, p.2) := rfl

theorem operandReads_updated : operandReads cur [] (some (o, true)) s = resolve o.mode s >>= fun p =>
    readPlace (typeAt cur o) p.1 p.2 >>= fun d => .ok ([d.1], some p.1, d.2) := rfl

end

section
variable (cur : OType) (width offset src src1 src2 dst : Operand) (s : State)

theorem moveShape_operate (f : OType → Value → Result) :
    moveShape cur src dst f s = operate cur [src] (some (dst, false))
      (placeResult (typeAt (typeAt cur src) dst) (readsPsw src) (1 + src.length + dst.length)
        fun vs => f (typeAt (typeAt cur src) dst) (vs.getD 0 oneValue)) s := by
  simp only [moveShape, operate, operandReads_cons, operandReads_written, bind_assoc, ok_bind]
  rfl

theorem twoAddress_operate (f : OType → Value → Value → Result) :
    twoAddress cur src dst f s = operate cur [src] (some (dst, true))
      (placeResult (typeAt (typeAt cur src) dst) (readsPsw src) (1 + src.length + dst.length)
        fun vs => f (typeAt (typeAt cur src) dst) (vs.getD 1 oneValue) (vs.getD 0 oneValue)) s := by
  simp only [twoAddress, operate, operandReads_cons, operandReads_updated, bind_assoc, ok_bind]
  rfl

theorem threeAddress_operate (f : OType → OType → Value → Value → Result) :
    threeAddress cur src1 src2 dst f s = operate cur [src1, src2] (some (dst, false))
      (placeResult (typeAt (typeAt (typeAt cur src1) src2) dst) (readsPsw src1 || readsPsw src2)
        (1 + src1.length + src2.length + dst.length)
        fun vs => f (typeAt (typeAt cur src1) src2) (typeAt (typeAt (typeAt cur src1) src2) dst) (vs.getD 1 oneValue)
          (vs.getD 0 oneValue)) s := by
  simp only [threeAddress, operate, operandReads_cons, operandReads_written, bind_assoc, ok_bind]
  rfl

theorem readModify_operate (f : OType → Value → Result) :
    readModify cur dst f s = operate cur [] (some (dst, true))
      (placeResult (typeAt cur dst) false (1 + dst.length) fun vs => f (typeAt cur dst) (vs.getD 0 oneValue)) s := by
  simp only [readModify, operate, operandReads_updated, bind_assoc, ok_bind]
  rfl

theorem writeOnly_operate (r : Result) :
    writeOnly cur dst r s = operate cur [] (some (dst, false))
      (placeResult (typeAt cur dst) false (1 + dst.length) fun _ => r) s := by
  simp only [writeOnly, operate, operandReads_written, bind_assoc]
  rfl

theorem extractShape_operate :
    extractShape cur width offset src dst s = operate cur [width, offset, src] (some (dst, false))
      (placeResult (typeAt (typeAt (typeAt (typeAt cur width) offset) src) dst)
        (readsPsw width || readsPsw offset || readsPsw src)
        (1 + width.length + offset.length + src.length + dst.length)
        fun vs => extractResult (typeAt (typeAt (typeAt (typeAt cur width) offset) src) dst) (vs.getD 0 oneValue)
          (vs.getD 1 oneValue) (vs.getD 2 oneValue)) s := by
  simp only [extractShape, operate, operandReads_cons, operandReads_written, bind_assoc, ok_bind]
  rfl

theorem insertShape_operate :
    insertShape cur width offset src dst s = operate cur [width, offset, src] (some (dst, true))
      (placeResult (typeAt (typeAt (typeAt (typeAt cur width) offset) src) dst)
        (readsPsw width || readsPsw offset || readsPsw src)
        (1 + width.length + offset.length + src.length + dst.length)
        fun vs => insertResult (typeAt (typeAt (typeAt (typeAt cur width) offset) src) dst) (vs.getD 0 oneValue)
          (vs.getD 1 oneValue) (vs.getD 2 oneValue) (vs.getD 3 oneValue)) s := by
  simp only [insertShape, operate, operandReads_cons, operandReads_updated, bind_assoc, ok_bind]
  rfl

theorem compareShape_operate (f : OType → Value → Value → BitVec 4) :
    compareShape cur src1 src2 f s = operate cur [src1, src2] none
      (fun r => .ok (finishFlags (readsPsw src1 || readsPsw src2) (1 + src1.length + src2.length)
        (f (typeAt (typeAt cur src1) src2) (r.1.getD 0 oneValue) (r.1.getD 1 oneValue)) r.2.2)) s := by
  simp only [compareShape, operate, operandReads_cons, operandReads_none, bind_assoc, ok_bind]
  rfl

theorem testShape_operate (f : Value → BitVec 4) :
    testShape cur src f s = operate cur [src] none
      (fun r => .ok (finishFlags (readsPsw src) (1 + src.length) (f (r.1.getD 0 oneValue)) r.2.2)) s := by
  simp only [testShape, operate, operandReads_cons, operandReads_none, bind_assoc, ok_bind]
  rfl

end

/-! ## The operand reads where nothing happens on the bus -/

/-- A run that reads: what it leaves, as `stateOf` finds it in its answer, is the state it began in, and so is what it fails
with, a memory exception. -/
def ReadsOnly {α : Type} (stateOf : α → State) (s : State) (r : Run α) : Prop :=
  (∀ x, r = .ok x → stateOf x = s) ∧ ∀ e u, r = .error (e, u) → e = .externalMemory ∧ u = s

theorem readsOnly_ok {α : Type} {stateOf : α → State} {s : State} {x : α} (h : stateOf x = s) :
    ReadsOnly stateOf s (.ok x) :=
  ⟨fun _ hx => by cases hx; exact h, fun _ _ hx => nomatch hx⟩

theorem ReadsOnly.bind {α β : Type} {stateOf : α → State} {stateOf' : β → State} {s : State} {r : Run α} {f : α → Run β}
    (h : ReadsOnly stateOf s r) (g : ∀ x, stateOf x = s → ReadsOnly stateOf' s (f x)) : ReadsOnly stateOf' s (r >>= f) := by
  cases r with
  | ok x => exact g x (h.1 x rfl)
  | error x => exact ⟨fun _ hx => (nomatch hx), fun e u hx => by cases hx; exact h.2 _ _ rfl⟩

section
variable {s : State} (hb : s.bus = [])
include hb

theorem readsOnly_loadAs (st : Status) (size : Size) (a : Word) :
    ReadsOnly Prod.snd s (loadAs st size .externalMemory a s) := by
  refine ⟨fun x h => ?_, fun e u h => loadAs_refused hb h⟩
  cases hm : memRead s st size a with
  | some v => rw [loadAs_quiet hb hm] at h; cases h; rfl
  | none => rw [loadAs_fails hb hm] at h; cases h

theorem readsOnly_effectiveAddress {m : Mode} (hc : m.isConstant = false) (hr : m.isRegister = false) :
    ReadsOnly Prod.snd s (effectiveAddress m s) := by
  cases m with
  | literal | negLiteral | immediate => cases hc
  | register => cases hr
  | displacementDeferred | absoluteDeferred => exact readsOnly_loadAs hb _ _ _
  | deferred | fpOffset | apOffset | displacement | absolute => exact readsOnly_ok rfl

theorem readsOnly_resolve {m : Mode} (hc : m.isConstant = false) : ReadsOnly Prod.snd s (resolve m s) := by
  cases m with
  | register => exact readsOnly_ok rfl
  | _ => exact (readsOnly_effectiveAddress hb hc rfl).bind fun x hx => readsOnly_ok hx

theorem readsOnly_readMemory (t : OType) (a : Word) : ReadsOnly Prod.snd s (readMemory t a s) :=
  (readsOnly_loadAs hb _ _ _).bind fun _ hx => readsOnly_ok hx

theorem readsOnly_readPlace (t : OType) (p : Place) : ReadsOnly Prod.snd s (readPlace t p s) := by
  cases p with
  | register r => exact readsOnly_ok rfl
  | memory a => exact readsOnly_readMemory hb t a

theorem readsOnly_readSource (t : OType) (m : Mode) : ReadsOnly Prod.snd s (readSource t m s) := by
  cases m with
  | literal | negLiteral | immediate | register => exact readsOnly_ok rfl
  | _ =>
    refine (readsOnly_effectiveAddress hb rfl rfl).bind fun x hx => ?_
    obtain ⟨a, u⟩ := x
    cases hx
    exact readsOnly_readMemory hb t a

/-- The operand reads, where a destination is no constant. -/
theorem readsOnly_operandReads (cur : OType) (sources : List Operand) {dst : Option (Operand × Bool)}
    (hd : ∀ d, dst = some d → d.1.wellFormed .dst = true) :
    ReadsOnly (fun r => r.2.2) s (operandReads cur sources dst s) := by
  induction sources generalizing cur with
  | cons o rest ih =>
    refine (readsOnly_readSource hb _ _).bind fun ⟨v, u⟩ hu => ?_
    cases hu
    exact (ih _).bind fun _ hx => readsOnly_ok hx
  | nil =>
    cases dst with
    | none => exact readsOnly_ok rfl
    | some d =>
      obtain ⟨o, read⟩ := d
      refine (readsOnly_resolve hb (wellFormed_not_constant (hd _ rfl))).bind fun ⟨p, u⟩ hu => ?_
      cases hu
      cases read with
      | false => exact readsOnly_ok rfl
      | true => exact (readsOnly_readPlace hb _ p).bind fun _ hx => readsOnly_ok hx

/-- The place the operand reads find is that of the destination. -/
theorem operandReads_resolves {cur : OType} {sources : List Operand} {dst : Operand} {read : Bool} {vs : List Value}
    {p : Option Place} {u : State} (h : operandReads cur sources (some (dst, read)) s = .ok (vs, p, u)) :
    ∃ q, p = some q ∧ ∃ t, resolve dst.mode s = .ok (q, t) := by
  induction sources generalizing cur vs with
  | cons o rest ih =>
    obtain ⟨⟨v, t⟩, hv, h⟩ := ok_of_bind (r := readSource (typeAt cur o) o.mode s) h
    obtain rfl : s = t := ((readsOnly_readSource hb _ _).1 _ hv).symm
    obtain ⟨⟨vs', p', u'⟩, hr, h⟩ := ok_of_bind (r := operandReads (typeAt cur o) rest (some (dst, read)) s) h
    cases h
    exact ih hr
  | nil =>
    obtain ⟨⟨q, t⟩, hq, h⟩ := ok_of_bind (r := resolve dst.mode s) h
    cases read with
    | false => cases h; exact ⟨q, rfl, _, hq⟩
    | true =>
      obtain ⟨⟨d, t'⟩, -, h⟩ := ok_of_bind (r := readPlace (typeAt cur dst) q t) h
      cases h
      exact ⟨q, rfl, _, hq⟩

/-- The same operand reads with a register in place of the destination. -/
theorem operandReads_register {cur : OType} {sources : List Operand} {dst dst' : Operand} {vs : List Value}
    {p : Option Place} {u : State} {r : Reg} (h : operandReads cur sources (some (dst, false)) s = .ok (vs, p, u))
    (hr : dst'.mode = .register r) :
    operandReads cur sources (some (dst', false)) s = .ok (vs, some (.register r), s) := by
  induction sources generalizing cur vs with
  | cons o rest ih =>
    obtain ⟨⟨v, t⟩, hv, h⟩ := ok_of_bind (r := readSource (typeAt cur o) o.mode s) h
    obtain rfl : s = t := ((readsOnly_readSource hb _ _).1 _ hv).symm
    obtain ⟨⟨vs', p', u'⟩, hrest, h⟩ := ok_of_bind (r := operandReads (typeAt cur o) rest (some (dst, false)) s) h
    cases h
    simp only [operandReads_cons, hv, ok_bind, ih hrest]
  | nil =>
    obtain ⟨⟨q, t⟩, hq, h⟩ := ok_of_bind (r := resolve dst.mode s) h
    cases h
    simp only [operandReads_written, hr, resolve, ok_bind]

end

/-! ## What a failed read leaves -/

theorem checkDestination_ok {dst : Option (Operand × Bool)} {s : State} (h : ∀ d, dst = some d → Permitted d.1 s) :
    checkDestination dst s = .ok () := by
  cases dst with
  | none => rfl
  | some d => exact checkPrivilege_ok (h d rfl)

theorem operate_checked {cur : OType} {sources : List Operand} {dst : Option (Operand × Bool)} {s : State}
    (ws : ∀ o ∈ sources, o.wellFormed .src = true)
    (wd : ∀ d, dst = some d → d.1.wellFormed .dst = true ∧ Permitted d.1 s)
    (ending : List Value × Option Place × State → Run State) :
    operate cur sources dst ending s = conclude (operandReads cur sources dst s >>= ending) := by
  have operands : checkOperands (rolesOf sources dst) s = .ok () := by
    apply checkOperands_ok
    intro e he
    rcases List.mem_append.mp he with he | he
    · obtain ⟨o, ho, rfl⟩ := List.mem_map.mp he
      exact ws o ho
    · simp only [Option.mem_toList, Option.map_eq_some_iff] at he
      obtain ⟨d, hd, rfl⟩ := he
      exact (wd d hd).1
  simp only [operate, operands, checkDestination_ok fun d hd => (wd d hd).2, ok_bind]

/-- An instruction whose operand reads are these, and the first of them that fails ends it. -/
def FailsInReads (i : Instr) (cur : OType) (sources : List Operand) (dst : Option (Operand × Bool)) (s : State) : Prop :=
  (∀ o ∈ sources, o.wellFormed .src = true) → (∀ d, dst = some d → d.1.wellFormed .dst = true ∧ Permitted d.1 s) →
    ∀ e t, operandReads cur sources dst s = .error (e, t) →
      exec i s = .next (fault e t) ∧ (s.bus = [] → e = .externalMemory ∧ t = s)

theorem failsInReads_of_operate {i : Instr} {cur : OType} {sources : List Operand} {dst : Option (Operand × Bool)}
    {s : State} {ending : List Value × Option Place × State → Run State}
    (run : exec i s = operate cur sources dst ending s) : FailsInReads i cur sources dst s := by
  intro ws wd e t h
  refine ⟨?_, fun hb => (readsOnly_operandReads hb cur sources fun d hd => (wd d hd).1).2 e t h⟩
  rw [run, operate_checked ws wd, h]
  rfl

/-! ## What a refused write leaves -/

/-- An instruction with these operands: their reads, a result that is no division by zero unless its first operand is 0, and
the end with a destination. -/
def Operates (c : Operand → Instr) (cur : OType) (divides : Bool) (sources : List Operand) (read : Bool) : Prop :=
  ∃ (f : Nat → OType → List Value → Result) (len : Operand → Nat),
    (∀ dst s, exec (c dst) s = operate cur sources (some (dst, read))
      (placeResult (typeAfter cur (sources ++ [dst])) (sources.any readsPsw) (len dst)
        (f s.free (typeAfter cur (sources ++ [dst])))) s) ∧
    ∀ n t vs, (divides = true → ∀ v, vs.head? = some v → v.int ≠ 0) → (f n t vs).zeroDivide = false

theorem Operates.fails {c : Operand → Instr} {cur : OType} {divides read : Bool} {sources : List Operand}
    (h : Operates c cur divides sources read) (dst : Operand) (s : State) :
    FailsInReads (c dst) cur sources (some (dst, read)) s := by
  obtain ⟨f, len, run, -⟩ := h
  exact failsInReads_of_operate (run dst s)

/-- Both runs of a refused write: the one that completes leaves its flags in w', the refused one raises a memory exception
with these flags and nothing else changed. -/
def RefusedAlike (i i' : Instr) (s s' : State) : Prop :=
  ∃ w w' o, exec i' s' = .next (complete o w') ∧ exec i s = .next (fault .externalMemory w) ∧
    flags w = flags w' ∧ (w = s ∨ w = setFlags (flags w') s)

theorem flags_setFlags {s : State} (hi : s.Inv) (f : BitVec 4) : flags (setFlags f s) = f := (flagsAre_setFlags hi.2.1 f false).1

theorem Wrote.flagsAre {t : OType} {p : Place} {v : Word} {keep : Bool} {f : BitVec 4} {len : Nat} {s w : State}
    (h : Wrote t p v keep f len s w) (hp : p ≠ .register .psw) : FlagsAre keep f s w := by
  simp only [Wrote] at h
  obtain ⟨-, wrote⟩ := h
  split at wrote
  · exact wrote.2.2.1
  · exact absurd rfl hp
  · exact wrote.2.2.2.1

/-- The end of an instruction at a place in memory that cannot be written, and at one that can. -/
theorem finish_refusedAlike {i i' : Instr} {s s' : State} (hi : s.Inv) (hi' : s'.Inv) (hb : s.bus = [])
    (same : flags s' = flags s) {t t' : OType} {a : Word} {p : Place} {keep : Bool} {len len' : Nat} {r : Result}
    (hp : ∀ r, p = .register r → r = .r0) (hs : Storable t' p s') (hz : r.zeroDivide = false)
    (hw : writeReach s .write (typeSize t) a r.value = none)
    (run : exec i s = conclude (finish t (.memory a) keep len r s))
    (run' : exec i' s' = conclude (finish t' p keep len' r s')) : RefusedAlike i i' s s' := by
  have ne : ∀ r, r ≠ .r0 → p ≠ .register r := fun r hr h => hr (hp r h)
  obtain ⟨w', done, wrote⟩ := finish_wrote hi' (ne .pc (by decide)) hs keep len' r hz
  have kept : (p == Place.register Reg.psw) = false := beq_eq_false_iff_ne.mpr (ne .psw (by decide))
  have flagsW : flags w' = if keep then flags s else r.flags := by
    have h := (wrote.flagsAre (ne .psw (by decide))).1
    rwa [kept, Bool.or_false, same] at h
  rw [finish_refused hb hz hw] at run
  rw [done] at run'
  refine ⟨applyFlags keep r.flags s, w', _, run', run, ?_⟩
  rw [flagsW]
  cases keep with
  | true => exact ⟨rfl, .inl rfl⟩
  | false => exact ⟨flags_setFlags hi _, .inr rfl⟩

theorem operate_ends {cur : OType} {sources : List Operand} {dst : Operand} {read : Bool} {s : State}
    (ws : ∀ o ∈ sources, o.wellFormed .src = true) (wd : dst.wellFormed .dst = true) (permitted : Permitted dst s)
    {vs : List Value} {p : Place} (reads : operandReads cur sources (some (dst, read)) s = .ok (vs, some p, s))
    (t : OType) (keep : Bool) (len : Nat) (f : List Value → Result) :
    operate cur sources (some (dst, read)) (placeResult t keep len f) s = conclude (finish t p keep len (f vs) s) := by
  rw [operate_checked ws fun d hd => by cases hd; exact ⟨wd, permitted⟩, reads]
  rfl

section
variable {c : Operand → Instr} {cur : OType} {divides read : Bool} {sources : List Operand} {dst : Operand} {s : State}
  {vs : List Value} {a : Word}

/-- A write refused in one state, and done in another that differs in what the memory system answers. -/
theorem Operates.refused {s' : State} (h : Operates c cur divides sources read) (hi : s.Inv) (hi' : s'.Inv)
    (hb : s.bus = []) (regs : s'.regs = s.regs) (free : s'.free = s.free)
    (ws : ∀ o ∈ sources, o.wellFormed .src = true) (wd : dst.wellFormed .dst = true) (permitted : Permitted dst s)
    (reads : operandReads cur sources (some (dst, read)) s = .ok (vs, some (.memory a), s))
    (reads' : operandReads cur sources (some (dst, read)) s' = .ok (vs, some (.memory a), s'))
    (hz : divides = true → ∀ v, vs.head? = some v → v.int ≠ 0)
    (hw : ∀ x, writeReach s .write (typeSize (typeAfter cur (sources ++ [dst]))) a x = none)
    (hs : Storable (typeAfter cur (sources ++ [dst])) (.memory a) s') : RefusedAlike (c dst) (c dst) s s' := by
  obtain ⟨f, len, run, nonzero⟩ := h
  have permitted' : Permitted dst s' := by
    intro r mode privileged
    simpa only [isKernel, currentLevel, regs] using permitted r mode privileged
  have same : flags s' = flags s := by simp only [flags, regs]
  have run' := run dst s'
  rw [free] at run'
  have no_register : ∀ r, Place.memory a = .register r → r = .r0 := fun _ h => Place.noConfusion h
  exact finish_refusedAlike hi hi' hb same no_register hs (nonzero s.free _ vs hz)
    (hw _) ((run dst s).trans (operate_ends ws wd permitted reads _ _ _ _))
    (run'.trans (operate_ends ws wd permitted' reads' _ _ _ _))

/-- A write refused, and the same instruction with r0 as its destination. -/
theorem Operates.unwritten (h : Operates c cur divides sources false) (hi : s.Inv) (hb : s.bus = [])
    (ws : ∀ o ∈ sources, o.wellFormed .src = true) (wd : dst.wellFormed .dst = true)
    (reads : operandReads cur sources (some (dst, false)) s = .ok (vs, some (.memory a), s))
    (hz : divides = true → ∀ v, vs.head? = some v → v.int ≠ 0)
    (hw : ∀ x, writeReach s .write (typeSize (typeAfter cur (sources ++ [dst]))) a x = none) :
    RefusedAlike (c dst) (c { dst with mode := .register .r0 }) s s := by
  obtain ⟨f, len, run, nonzero⟩ := h
  have permitted : Permitted dst s := by
    intro r mode
    obtain ⟨q, place, t, resolved⟩ := operandReads_resolves hb reads
    cases place
    rw [mode] at resolved
    cases resolved
  have permitted' : Permitted { dst with mode := .register .r0 } s := by
    intro r mode privileged
    cases mode
    cases privileged
  have same : typeAfter cur (sources ++ [{ dst with mode := .register .r0 }]) = typeAfter cur (sources ++ [dst]) := by
    simp only [typeAfter, List.foldl_append, List.foldl_cons, List.foldl_nil, typeAt]
  have run' := run { dst with mode := .register .r0 } s
  rw [same] at run'
  have register : ∀ r, Place.register .r0 = .register r → r = .r0 := fun _ h => (Place.register.inj h).symm
  have wd' : Operand.wellFormed .dst { dst with mode := .register .r0 } = true :=
    (Bool.true_and _).trans (Bool.or_true _)
  exact finish_refusedAlike hi hi hb rfl register trivial (nonzero s.free _ vs hz) (hw _)
    ((run dst s).trans (operate_ends ws wd permitted reads _ _ _ _))
    (run'.trans (operate_ends ws wd' permitted' (operandReads_register hb reads rfl) _ _ _ _))

end

/-! ## The forms -/

/-- The lengths of the operands added up, and the opcode. -/
def instrLength (sources : List Operand) (dst : Operand) : Nat :=
  sources.foldl (fun n o => n + o.length) 1 + dst.length

/-- The first operand of a division is not 0. -/
theorem head_nonzero {divides : Bool} {vs : List Value}
    (h : divides = true → ∀ v, vs.head? = some v → v.int ≠ 0) (hd : divides = true) : (vs.getD 0 oneValue).int ≠ 0 := by
  cases vs with
  | nil => exact Int.one_ne_zero
  | cons v vs => exact h hd v rfl

/-- A result is a division by zero where it divides and the divisor is 0. -/
def DividesBy (divides : Bool) (v : Value) (r : Result) : Prop := r.zeroDivide = (divides && decide (v.int = 0))

theorem DividesBy.nonzero {divides : Bool} {v : Value} {r : Result} (h : DividesBy divides v r)
    (hv : divides = true → v.int ≠ 0) : r.zeroDivide = false := by
  rw [h]
  cases divides with
  | false => rfl
  | true => exact decide_eq_false (hv rfl)

theorem dividesBy_quotient {v : Value} {r : Result} (h : r.zeroDivide = false) :
    DividesBy true v (if v.int = 0 then zeroDivision else r) := by
  by_cases hv : v.int = 0
  · simp only [DividesBy, hv, if_true, decide_true, Bool.and_self, zeroDivision]
  · simp only [DividesBy, hv, if_false, decide_false, Bool.and_false, h]

theorem operates_copy {c : Operand → Operand → Instr} {cur : OType} {f : OType → Value → Result}
    (run : RunsCopy c cur f) (nonzero : ∀ t v, (f t v).zeroDivide = false) (a : Operand) :
    Operates (c a) cur false [a] false :=
  ⟨fun _ t vs => f t (vs.getD 0 oneValue), instrLength [a], fun d s => by
    rw [(run a d).2, moveShape_operate, ← Bool.or_false (readsPsw a)]
    rfl, fun _ _ _ _ => nonzero _ _⟩

theorem operates_two {c : Operand → Operand → Instr} {cur : OType} {divides : Bool} {f : OType → Value → Value → Result}
    (run : RunsTwo c cur f) (nonzero : ∀ t d v, DividesBy divides v (f t d v)) (a : Operand) :
    Operates (c a) cur divides [a] true :=
  ⟨fun _ t vs => f t (vs.getD 1 oneValue) (vs.getD 0 oneValue), instrLength [a], fun d s => by
    rw [(run a d).2, twoAddress_operate, ← Bool.or_false (readsPsw a)]
    rfl, fun _ _ _ h => (nonzero _ _ _).nonzero (head_nonzero h)⟩

theorem operates_three {c : Operand → Operand → Operand → Instr} {cur : OType} {divides : Bool}
    (f : Nat → OType → OType → Value → Value → Result)
    (run : ∀ a b d s, exec (c a b d) s = threeAddress cur a b d (f s.free) s)
    (nonzero : ∀ n t2 t d v, DividesBy divides v (f n t2 t d v)) (a b : Operand) :
    Operates (c a b) cur divides [a, b] false :=
  ⟨fun n t vs => f n (typeAt (typeAt cur a) b) t (vs.getD 1 oneValue) (vs.getD 0 oneValue), instrLength [a, b], fun d s => by
    rw [run a b d, threeAddress_operate, ← Bool.or_false (readsPsw b)]
    rfl, fun _ _ _ h => (nonzero _ _ _ _ _).nonzero (head_nonzero h)⟩

theorem operates_modify {c : Operand → Instr} {cur : OType} {f : OType → Value → Result} (run : RunsModify c cur f)
    (nonzero : ∀ t d, (f t d).zeroDivide = false) : Operates c cur false [] true :=
  ⟨fun _ t vs => f t (vs.getD 0 oneValue), instrLength [], fun d s => by
    rw [(run d).2, readModify_operate]
    rfl, fun _ _ _ _ => nonzero _ _⟩

theorem operates_clear {c : Operand → Instr} {cur : OType} {r : Result} (run : ∀ d s, exec (c d) s = writeOnly cur d r s)
    (nonzero : r.zeroDivide = false) : Operates c cur false [] false :=
  ⟨fun _ _ _ => r, instrLength [], fun d s => by
    rw [run, writeOnly_operate]
    rfl, fun _ _ _ _ => nonzero⟩

theorem operates_extract {c : Operand → Operand → Operand → Operand → Instr} {cur : OType}
    (run : RunsField c (extractShape cur)) (w o v : Operand) : Operates (c w o v) cur false [w, o, v] false :=
  ⟨fun _ t vs => extractResult t (vs.getD 0 oneValue) (vs.getD 1 oneValue) (vs.getD 2 oneValue), instrLength [w, o, v],
    fun d s => by
      rw [(run w o v d).2, extractShape_operate, Bool.or_assoc, ← Bool.or_false (readsPsw v)]
      rfl, fun _ _ _ _ => rfl⟩

theorem operates_insert {c : Operand → Operand → Operand → Operand → Instr} {cur : OType}
    (run : RunsField c (insertShape cur)) (w o v : Operand) : Operates (c w o v) cur false [w, o, v] true :=
  ⟨fun _ t vs => insertResult t (vs.getD 0 oneValue) (vs.getD 1 oneValue) (vs.getD 2 oneValue) (vs.getD 3 oneValue),
    instrLength [w, o, v], fun d s => by
      rw [(run w o v d).2, insertShape_operate, Bool.or_assoc, ← Bool.or_false (readsPsw v)]
      rfl, fun _ _ _ _ => rfl⟩

theorem copyForms_operate : ∀ e ∈ copyForms, ∀ a, Operates (e.1 a) e.2 false [a] false := by
  intro e he
  fin_cases he <;> exact operates_copy (fun _ _ => ⟨length_cons_two _ _ _, fun _ => rfl⟩) fun _ _ => rfl

theorem unaryForms_operate : ∀ e ∈ unaryForms, Operates e.1 e.2.1 false [] e.2.2 := by
  intro e he
  fin_cases he
  iterate 3
    exact operates_modify (f := fun t d => addResult t d oneValue) (fun _ => ⟨length_cons_one _ _, fun _ => rfl⟩) fun _ _ => rfl
  iterate 3
    exact operates_modify (f := fun t d => subResult t d oneValue) (fun _ => ⟨length_cons_one _ _, fun _ => rfl⟩) fun _ _ => rfl
  all_goals exact operates_clear (fun _ _ => rfl) rfl

theorem fieldForms_operate : ∀ e ∈ fieldForms, ∀ a b c, Operates (e.1 a b c) e.2.1 false [a, b, c] e.2.2 := by
  intro e he
  fin_cases he
  iterate 3 exact operates_extract fun _ _ _ _ => ⟨length_cons_four _ _ _ _ _, fun _ => rfl⟩
  all_goals exact operates_insert fun _ _ _ _ => ⟨length_cons_four _ _ _ _ _, fun _ => rfl⟩

theorem updateForms_operate : ∀ e ∈ updateForms, ∀ a, Operates (e.1 a) e.2.1 e.2.2 [a] true := by
  intro e he
  fin_cases he
  iterate 9 exact operates_two (fun _ _ => ⟨length_cons_two _ _ _, fun _ => rfl⟩) fun _ _ _ => rfl
  iterate 6 exact operates_two (fun _ _ => ⟨length_cons_two _ _ _, fun _ => rfl⟩) fun _ _ _ => dividesBy_quotient rfl
  all_goals exact operates_two (fun _ _ => ⟨length_cons_two _ _ _, fun _ => rfl⟩) fun _ _ _ => rfl

theorem tripleForms_operate : ∀ e ∈ tripleForms, ∀ a b, Operates (e.1 a b) e.2.1 e.2.2 [a, b] false := by
  intro e he
  fin_cases he
  iterate 3 exact operates_three (fun _ _ => addResult) (fun _ _ _ _ => rfl) fun _ _ _ _ _ => rfl
  iterate 3 exact operates_three (fun _ _ => subResult) (fun _ _ _ _ => rfl) fun _ _ _ _ _ => rfl
  iterate 3 exact operates_three (fun n _ => mulResult3 n) (fun _ _ _ _ => rfl) fun _ _ _ _ _ => rfl
  iterate 3 exact operates_three (fun n _ => divResult3 n) (fun _ _ _ _ => rfl) fun _ _ _ _ _ => dividesBy_quotient rfl
  iterate 3 exact operates_three (fun n _ => modResult3 n) (fun _ _ _ _ => rfl) fun _ _ _ _ _ => dividesBy_quotient rfl
  iterate 3 exact operates_three (fun _ _ => andResult) (fun _ _ _ _ => rfl) fun _ _ _ _ _ => rfl
  iterate 3 exact operates_three (fun _ _ => orResult) (fun _ _ _ _ => rfl) fun _ _ _ _ _ => rfl
  iterate 3 exact operates_three (fun _ _ => xorResult) (fun _ _ _ _ => rfl) fun _ _ _ _ _ => rfl
  · exact operates_three (fun _ _ => leftShiftResult) (fun _ _ _ _ => rfl) fun _ _ _ _ _ => rfl
  iterate 3 exact operates_three (fun _ => arithmeticShiftResult) (fun _ _ _ _ => rfl) fun _ _ _ _ _ => rfl
  iterate 3 exact operates_three (fun _ _ => leftShiftResult) (fun _ _ _ _ => rfl) fun _ _ _ _ _ => rfl
  · exact operates_three (fun _ _ => rightShiftResult) (fun _ _ _ _ => rfl) fun _ _ _ _ _ => rfl
  · exact operates_three (fun _ _ => rotateResult) (fun _ _ _ _ => rfl) fun _ _ _ _ _ => rfl

theorem fails_of_compare {c : Operand → Operand → Instr} {cur : OType} {f : OType → Value → Value → BitVec 4}
    (run : RunsCompare c cur f) (a b : Operand) (s : State) : FailsInReads (c a b) cur [a, b] none s :=
  failsInReads_of_operate (((run a b).2 s).trans (compareShape_operate _ _ _ _ _))

theorem flagForms_fail : ∀ e ∈ [(Instr.cmpb, OType.ubyte), (.cmph, .shalf), (.cmpw, .sword), (.bitb, .ubyte),
    (.bith, .shalf), (.bitw, .sword)], ∀ a b s, FailsInReads (e.1 a b) e.2 [a, b] none s := by
  intro e he a b s
  have he : e ∈ [(Instr.cmpb, OType.ubyte), (.cmph, .shalf), (.cmpw, .sword)] ∨
      e ∈ [(Instr.bitb, OType.ubyte), (.bith, .shalf), (.bitw, .sword)] := List.mem_append.mp he
  rcases he with he | he
  · exact fails_of_compare (runs_compares e he) a b s
  · exact fails_of_compare (runs_bitTests e he) a b s

theorem testForms_fail : ∀ e ∈ [(Instr.tstb, OType.ubyte), (.tsth, .shalf), (.tstw, .sword)], ∀ a s,
    FailsInReads (e.1 a) e.2 [a] none s := by
  intro e he a s
  exact failsInReads_of_operate (((runs_tests e he a).2 s).trans (testShape_operate _ _ _ _))

end Sys2Proof.Machine
end

section
/-! The memory exceptions of the other ordinary instructions: those that only form addresses, stack and procedure
instructions, swaps, block move and strings (spec/20_memory.md R80, R86, R95, R100; 70_reset_and_hazards.md R615). -/

namespace Sys2Proof.Machine

/-! ## Checks passed, and a first failure -/

theorem conclude_checked {os : List (Role × Operand)} {s : State} (h : ∀ e ∈ os, e.2.wellFormed e.1 = true)
    (k : Unit → Run State) : conclude (checkOperands os s >>= k) = conclude (k ()) := by
  rw [checkOperands_ok h, ok_bind]

theorem conclude_permitted {dst : Operand} {s : State} (h : Permitted dst s) (k : Unit → Run State) :
    conclude (checkPrivilege dst.mode s >>= k) = conclude (k ()) := by
  rw [checkPrivilege_ok h, ok_bind]

theorem conclude_reads {α : Type} {r : Run α} {x : α} (h : r = .ok x) (k : α → Run State) :
    conclude (r >>= k) = conclude (k x) := by rw [h, ok_bind]

theorem conclude_fails {α : Type} {r : Run α} {e : Exn} {t : State} (h : r = .error (e, t)) (k : α → Run State) :
    conclude (r >>= k) = .next (fault e t) := by rw [h]; rfl

section
variable {o src dst : Operand} {s t : State} {e : Exn}

theorem wellFormed_one {r : Role} (h : o.wellFormed r = true) : ∀ e ∈ [(r, o)], e.2.wellFormed e.1 = true := by
  simpa using h

theorem wellFormed_two {r r' : Role} (h : src.wellFormed r = true) (h' : dst.wellFormed r' = true) :
    ∀ e ∈ [(r, src), (r', dst)], e.2.wellFormed e.1 = true := by simp [h, h']

/-! ## An address that cannot be formed -/

theorem plainAddress_fails (h : effectiveAddress o.mode s = .error (e, t)) (wf : o.wellFormed .addrPlain = true) :
    ∀ i ∈ [Instr.jsb, .pushaw, .swapbi, .swaphi, .swapwi], exec (i o) s = .next (fault e t) := by
  intro i hi
  fin_cases hi <;> exact (conclude_checked (wellFormed_one wf) _).trans (conclude_fails h _)

theorem jmp_fails (h : effectiveAddress o.mode s = .error (e, t)) (wf : o.wellFormed .addr = true) :
    exec (.jmp o) s = .next (fault e t) :=
  (conclude_checked (wellFormed_one wf) _).trans (conclude_fails h _)

theorem addressMove_fails (h : effectiveAddress src.mode s = .error (e, t)) (wf : src.wellFormed .addr = true)
    (wd : dst.wellFormed .dst = true) (permitted : Permitted dst s) :
    ∀ i ∈ [Instr.movaw, .movtrw], exec (i src dst) s = .next (fault e t) := by
  intro i hi
  fin_cases hi <;>
    exact (conclude_checked (wellFormed_two wf wd) _).trans ((conclude_permitted permitted _).trans (conclude_fails h _))

theorem call_fails (h : effectiveAddress src.mode s = .error (e, t)) (wf : src.wellFormed .addrPlain = true)
    (wd : dst.wellFormed .addrPlain = true) : exec (.call src dst) s = .next (fault e t) :=
  (conclude_checked (wellFormed_two wf wd) _).trans (conclude_fails h _)

theorem call_fails_second {a : Word} (ha : effectiveAddress src.mode s = .ok (a, s))
    (h : effectiveAddress dst.mode s = .error (e, t)) (wf : src.wellFormed .addrPlain = true)
    (wd : dst.wellFormed .addrPlain = true) : exec (.call src dst) s = .next (fault e t) :=
  (conclude_checked (wellFormed_two wf wd) _).trans ((conclude_reads ha _).trans (conclude_fails h _))

end

/-! ## MOVAW and MOVTRW -/

theorem readReach_of_memRead {s : State} {st : Status} {size : Size} {a : Word} (h : memRead s st size a ≠ none) :
    ∃ q, readReach s st size a = some q := by
  cases hq : readReach s st size a with
  | some q => exact ⟨q, rfl⟩
  | none => exact absurd (by rw [memRead, hq, Option.map_none]) h

theorem translatedWord_refused {s : State} {a : Word} (hb : s.bus = [])
    (h : memRead s .moveTranslated .word a = none) : translatedWord a s = .error (.externalMemory, s) := by
  have reach : readReach s .moveTranslated .word a = none := Option.map_eq_none_iff.mp h
  simp only [translatedWord, dataTurn_quiet hb, bind, Except.bind, reach]

section
variable {src dst : Operand} {a : Word} {s u : State} {e : Exn}

/-- MOVAW and MOVTRW up to their destination: the address moved, and the word (40_data_transfer R206,
46_operating_system R488). -/
theorem exec_movaw (ha : AddressIs .addr src s a) (wd : dst.wellFormed .dst = true) (permitted : Permitted dst s) :
    exec (.movaw src dst) s = conclude (resolve dst.mode s >>= fun x =>
      finish (typeAt (typeAt .sword src) dst) x.1 false (1 + src.length + dst.length)
        (caseOne (typeAt (typeAt .sword src) dst) a) x.2) :=
  (conclude_checked (wellFormed_two ha.1 wd) _).trans ((conclude_permitted permitted _).trans (conclude_reads ha.2 _))

theorem exec_movtrw (ha : AddressIs .addr src s a) (wd : dst.wellFormed .dst = true) (permitted : Permitted dst s) :
    exec (.movtrw src dst) s = conclude (translatedWord a s >>= fun w => resolve dst.mode w.2 >>= fun x =>
      finish (typeAt (typeAt .sword src) dst) x.1 false (1 + src.length + dst.length)
        { value := w.1, flags := wordFlags w.1 } x.2) :=
  (conclude_checked (wellFormed_two ha.1 wd) _).trans ((conclude_permitted permitted _).trans (conclude_reads ha.2 _))

theorem movaw_unresolved (ha : AddressIs .addr src s a) (wd : dst.wellFormed .dst = true) (permitted : Permitted dst s)
    (h : resolve dst.mode s = .error (e, u)) : exec (.movaw src dst) s = .next (fault e u) :=
  (exec_movaw ha wd permitted).trans (conclude_fails h _)

theorem movtrw_unread (hb : s.bus = []) (ha : AddressIs .addr src s a) (wd : dst.wellFormed .dst = true)
    (permitted : Permitted dst s) (h : memRead s .moveTranslated .word a = none) :
    exec (.movtrw src dst) s = .next (fault .externalMemory s) :=
  (exec_movtrw ha wd permitted).trans (conclude_fails (translatedWord_refused hb h) _)

theorem movtrw_unresolved (hb : s.bus = []) (ha : AddressIs .addr src s a) (wd : dst.wellFormed .dst = true)
    (permitted : Permitted dst s) (hr : memRead s .moveTranslated .word a ≠ none)
    (h : resolve dst.mode s = .error (e, u)) : exec (.movtrw src dst) s = .next (fault e u) := by
  obtain ⟨q, hq⟩ := readReach_of_memRead hr
  exact (exec_movtrw ha wd permitted).trans ((conclude_reads (translatedWord_quiet hb hq) _).trans (conclude_fails h _))

variable {b : Word} (hr : resolve dst.mode s = .ok (.memory b, s))
  (hw : ∀ x, writeReach s .write (typeSize (typeAt (typeAt .sword src) dst)) b x = none)
include hr hw

theorem movaw_unwritten (hb : s.bus = []) (ha : AddressIs .addr src s a) (wd : dst.wellFormed .dst = true)
    (permitted : Permitted dst s) : exec (.movaw src dst) s =
      .next (fault .externalMemory (setFlags (caseOne (typeAt (typeAt .sword src) dst) a).flags s)) :=
  (exec_movaw ha wd permitted).trans ((conclude_reads hr _).trans
    (conclude_error (finish_refused (r := caseOne (typeAt (typeAt .sword src) dst) a) hb rfl (hw _) false _)))

theorem movtrw_unwritten (hb : s.bus = []) (ha : AddressIs .addr src s a) (wd : dst.wellFormed .dst = true)
    (permitted : Permitted dst s) {q : Reached} (hq : readReach s .moveTranslated .word a = some q) :
    exec (.movtrw src dst) s = .next (fault .externalMemory (setFlags (wordFlags (movedWord s q)) s)) :=
  (exec_movtrw ha wd permitted).trans ((conclude_reads (translatedWord_quiet hb hq) _).trans ((conclude_reads hr _).trans
    (conclude_error (finish_refused (r := { value := movedWord s q, flags := wordFlags (movedWord s q) }) hb rfl (hw _)
      false _))))

end

/-! ## The stack -/

/-- A word that cannot be pushed: only the flags set before it are changed (45_stack_misc R450). -/
theorem push_refused {s : State} {x : Word} (hb : s.bus = []) (h : writeReach s .write .word s.regs.sp x = none)
    (keep : Bool) (f : BitVec 4) :
    push x (applyFlags keep f s) = .error (.externalMemory, applyFlags keep f s) := by
  have sp : (applyFlags keep f s).regs.sp = s.regs.sp := by cases keep <;> rfl
  have bus : (applyFlags keep f s).bus = [] := by cases keep <;> exact hb
  have refused : store .externalMemory s.regs.sp x (applyFlags keep f s) = .error (.externalMemory, applyFlags keep f s) :=
    storeAs_fails bus (by rw [writeReach_applyFlags]; exact h) _
  simp only [push, sp, refused, bind, Except.bind]

theorem callTo_refused {s : State} {len : Nat} (hb : s.bus = [])
    (h : writeReach s .write .word s.regs.sp (s.regs.pc + BitVec.ofNat 32 len) = none) (target : Word) :
    callTo len target s = .error (.externalMemory, s) := by
  have refused := push_refused hb h true 0
  simp only [applyFlags, if_true] at refused
  simp only [callTo, refused, bind, Except.bind]

section
variable {src dst : Operand} {a : Word} {s t : State} {e : Exn}

theorem pushw_unread (wf : src.wellFormed .srcPlain = true) (h : readSource .sword src.mode s = .error (e, t)) :
    exec (.pushw src) s = .next (fault e t) :=
  (conclude_checked (wellFormed_one wf) _).trans (conclude_fails h _)

theorem pushw_unwritten (hb : s.bus = []) {v : Value} (wf : src.wellFormed .srcPlain = true)
    (hv : readSource .sword src.mode s = .ok (v, s)) (h : writeReach s .write .word s.regs.sp v.bits = none) :
    exec (.pushw src) s = .next (fault .externalMemory (applyFlags (readsPsw src) (wordFlags v.bits) s)) :=
  (conclude_checked (wellFormed_one wf) _).trans ((conclude_reads hv _).trans (conclude_fails (push_refused hb h _ _) _))

theorem pushaw_unwritten (hb : s.bus = []) (ha : AddressIs .addrPlain src s a)
    (h : writeReach s .write .word s.regs.sp a = none) :
    exec (.pushaw src) s = .next (fault .externalMemory (setFlags (wordFlags a) s)) :=
  (conclude_checked (wellFormed_one ha.1) _).trans ((conclude_reads ha.2 _).trans
    (conclude_fails (push_refused hb h false _) _))

theorem jsb_unwritten (hb : s.bus = []) (ha : AddressIs .addrPlain src s a)
    (h : writeReach s .write .word s.regs.sp (s.regs.pc + BitVec.ofNat 32 (encode (.jsb src)).length) = none) :
    exec (.jsb src) s = .next (fault .externalMemory s) := by
  rw [length_jsb] at h
  exact (exec_jsb ha).trans (conclude_error (callTo_refused hb h a))

theorem bsbb_unwritten (hb : s.bus = []) (h : writeReach s .write .word s.regs.sp (s.regs.pc + 2) = none) (d : BitVec 8) :
    exec (.bsbb d) s = .next (fault .externalMemory s) :=
  conclude_error (callTo_refused (len := 2) hb h (s.regs.pc + d.signExtend 32))

theorem bsbh_unwritten (hb : s.bus = []) (h : writeReach s .write .word s.regs.sp (s.regs.pc + 3) = none) (d : BitVec 16) :
    exec (.bsbh d) s = .next (fault .externalMemory s) :=
  conclude_error (callTo_refused (len := 3) hb h (s.regs.pc + d.signExtend 32))

theorem popw_unresolved (wf : dst.wellFormed .dstPlain = true) (permitted : Permitted dst s)
    (h : resolve dst.mode s = .error (e, t)) : exec (.popw dst) s = .next (fault e t) :=
  (conclude_checked (wellFormed_one wf) _).trans ((conclude_permitted permitted _).trans (conclude_fails h _))

theorem popw_unread (hb : s.bus = []) {p : Place} (wf : dst.wellFormed .dstPlain = true) (permitted : Permitted dst s)
    (hr : resolve dst.mode s = .ok (p, s)) (h : memRead s .operandFetch .word (s.regs.sp - 4) = none) :
    exec (.popw dst) s = .next (fault .externalMemory s) :=
  (conclude_checked (wellFormed_one wf) _).trans ((conclude_permitted permitted _).trans ((conclude_reads hr _).trans
    (conclude_fails (loadAs_fails hb h _) _)))

theorem popw_unwritten (hb : s.bus = []) {x : Word} (wf : dst.wellFormed .dstPlain = true) (permitted : Permitted dst s)
    (hr : resolve dst.mode s = .ok (.memory a, s)) (hx : memRead s .operandFetch .word (s.regs.sp - 4) = some x)
    (h : writeReach s .write .word a x = none) :
    exec (.popw dst) s = .next (fault .externalMemory (setFlags (wordFlags x) s)) := by
  have refused : writePlace .sword (.memory a) x (setFlags (wordFlags x) s) =
      .error (.externalMemory, setFlags (wordFlags x) s) :=
    storeAs_fails (s := setFlags (wordFlags x) s) hb (by rw [writeReach_setFlags]; exact h) _
  exact (conclude_checked (wellFormed_one wf) _).trans ((conclude_permitted permitted _).trans ((conclude_reads hr _).trans
    ((conclude_reads (loadAs_quiet hb hx _) _).trans (conclude_fails refused _))))

/-! ## CALL -/

variable {b : Word} (ha : AddressIs .addrPlain src s a) (hd : AddressIs .addrPlain dst s b)
include ha hd

theorem call_unwritten (hb : s.bus = []) (h : writeReach s .write .word (s.regs.sp + 4) s.regs.ap = none) :
    exec (.call src dst) s = .next (fault .externalMemory s) :=
  (exec_call ha hd).trans (conclude_fails (storeAs_fails hb h _) _)

/-- The word of AP is stored, the return address is not (43_program_control R401). -/
theorem call_halfWritten (hi : s.Inv) (hb : s.bus = []) {q : Reached}
    (hq : writeReach s .write .word (s.regs.sp + 4) s.regs.ap = some q)
    (h : writeReach s .write .word s.regs.sp (s.regs.pc + BitVec.ofNat 32 (encode (.call src dst)).length) = none) :
    ∃ m, exec (.call src dst) s = .next (fault .externalMemory { s with mem := m }) ∧
      StoredAt .word q s.regs.ap s { s with mem := m } := by
  rw [length_call] at h
  have second : store .externalMemory s.regs.sp (s.regs.pc + BitVec.ofNat 32 (1 + src.length + dst.length))
      { s with mem := deposited s.mem .word q s.regs.ap } =
      .error (.externalMemory, { s with mem := deposited s.mem .word q s.regs.ap }) :=
    storeAs_fails (s := { s with mem := deposited s.mem .word q s.regs.ap }) hb h _
  exact ⟨_, (exec_call ha hd).trans ((conclude_reads (storeAs_quiet hb hq _) _).trans (conclude_fails second _)),
    storedAt_deposited hi.1 rfl⟩

end

/-! ## Swaps, block move and strings -/

section
variable {s : State} {dst : Operand} {a : Word} {c : OType}

theorem swapShape_unread (hb : s.bus = []) (ha : AddressIs .addrPlain dst s a)
    (h : memRead s .interlocked (typeSize c) a = none) : swapShape c dst s = .next (fault .externalMemory s) :=
  (conclude_checked (wellFormed_one ha.1) _).trans ((conclude_reads ha.2 _).trans (conclude_fails (loadAs_fails hb h _) _))

/-- The write fails behind the read: memory and r0 stay, the flags are set (40_data_transfer R214). -/
theorem swapShape_unwritten (hb : s.bus = []) (ha : AddressIs .addrPlain dst s a) {x : Word}
    (hx : memRead s .interlocked (typeSize c) a = some x)
    (h : writeReach s .interlocked (typeSize c) a s.regs.r0 = none) : swapShape c dst s = .next (fault .externalMemory
      (setFlags (packFlags (msbOf c (extend c x)) (isZero c (extend c x)) false false) s)) := by
  generalize hf : packFlags (msbOf c (extend c x)) (isZero c (extend c x)) false false = f
  have refused : put .interlocked (typeSize c) .externalMemory a s.regs.r0 (setFlags f s) =
      .error (.externalMemory, setFlags f s) := by
    simp only [put, memWrite, writeReach_setFlags, h, Option.map_none]
  refine (conclude_checked (wellFormed_one ha.1) _).trans ((conclude_reads ha.2 _).trans
    ((conclude_reads (loadAs_quiet hb hx _) _).trans ?_))
  simp only [hf]
  exact conclude_fails refused _

theorem movblw_refused (hb : s.bus = []) (h2 : s.regs.r2 ≠ 0)
    (h : memRead s .operandFetch .word s.regs.r0 = none ∨ ∃ x, memRead s .operandFetch .word s.regs.r0 = some x ∧
      writeReach s .write .word s.regs.r1 x = none) : exec .movblw s = .next (fault .externalMemory s) := by
  have copy : copyWord .externalMemory s = .error (.externalMemory, s) := by
    rcases h with h | ⟨x, hx, h⟩
    · have read : load .externalMemory s.regs.r0 s = .error (.externalMemory, s) := loadAs_fails hb h _
      simp only [copyWord, read, bind, Except.bind]
    · have read : load .externalMemory s.regs.r0 s = .ok (x, s) := loadAs_quiet hb hx _
      have write : store .externalMemory s.regs.r1 x s = .error (.externalMemory, s) := storeAs_fails hb h _
      simp only [copyWord, read, write, bind, Except.bind]
  exact conclude_error (by simp only [iterate, moveWord, h2, if_false, copy, bind, Except.bind])

theorem strcpy_refused (hb : s.bus = [])
    (h : memRead s .operandFetch .byte s.regs.r0 = none ∨ ∃ x, memRead s .operandFetch .byte s.regs.r0 = some x ∧
      writeReach s .write .byte s.regs.r1 x = none) : exec .strcpy s = .next (fault .externalMemory s) := by
  refine conclude_error (show copyByte s = _ from ?_)
  rcases h with h | ⟨x, hx, h⟩
  · simp only [copyByte, loadAs_fails hb h, bind, Except.bind]
  · simp only [copyByte, loadAs_quiet hb hx, storeAs_fails hb h, bind, Except.bind]

theorem strend_refused (hb : s.bus = []) (h : memRead s .operandFetch .byte s.regs.r0 = none) :
    exec .strend s = .next (fault .externalMemory s) :=
  conclude_fails (loadAs_fails hb h _) _

end

/-! ## SAVE and RESTORE -/

section
variable {s : State} {r : Reg}

/-- SAVE %rn, whose word k is the first that cannot be stored (43_program_control R402). -/
theorem save_refused (hb : s.bus = []) (hr : r.saveable = true) {words : List Word} {qs : List Reached}
    (hwords : words = s.regs.fp :: (generalRegs.drop r.num.toNat).map fun r => reg s r) (hk : qs.length < words.length)
    (reached : ∀ j, j < qs.length →
      writeReach s .write .word (s.regs.sp + BitVec.ofNat 32 (4 * j)) (words.getD j 0) = qs[j]?)
    (refused : writeReach s .write .word (s.regs.sp + BitVec.ofNat 32 (4 * qs.length)) (words.getD qs.length 0) = none) :
    exec (.save { mode := .register r }) s = .next (fault .externalMemory { s with mem := landed s.mem words qs }) := by
  have stops : storeWords .externalMemory s.regs.sp words s = .error _ := storeWords_refused hb qs hk reached refused
  rw [hwords] at stops ⊢
  show execSave { mode := .register r } s = _
  simp only [execSave, checkOperands_regList r, savedRegs_register hr]
  exact conclude_fails stops _

/-- Reads do not depend on the registers but the PSW. -/
theorem memRead_setReg (hr : r ≠ .psw) (v : Word) (s : State) (st : Status) (size : Size) (a : Word) :
    memRead (setReg r v s) st size a = memRead s st size a := by
  have level : accessLevel (setReg r v s) = accessLevel s := by
    simp only [accessLevel, currentLevel, psw_setReg, if_neg hr]
    rfl
  simp only [memRead, readReach, access, reply, Reply.applies, translate, translating, level]
  rfl

/-- A row of words loaded into registers, up to the first that cannot be read. -/
theorem loadRegs_refused {e : Exn} {rs : List Reg} {xs : List Word} {a : Word} (hb : s.bus = []) (hn : rs.Nodup)
    (hq : .psw ∉ rs) (hk : xs.length < rs.length)
    (hx : ∀ j, j < xs.length → memRead s .operandFetch .word (a + BitVec.ofNat 32 (4 * j)) = xs[j]?)
    (h : memRead s .operandFetch .word (a + BitVec.ofNat 32 (4 * xs.length)) = none) :
    ∃ g, loadRegs e a rs s = .error (e, { s with regs := g }) ∧
      (∀ j, j < xs.length → ∀ r, rs[j]? = some r → readReg r g = xs.getD j 0) ∧
      ∀ r, (∀ j, j < xs.length → rs[j]? ≠ some r) → readReg r g = reg s r := by
  induction rs generalizing a s xs with
  | nil => exact absurd hk (Nat.not_lt_zero _)
  | cons r rest ih =>
    cases xs with
    | nil =>
      have here : memRead s .operandFetch .word a = none := by simpa using h
      have read : load e a s = .error (e, s) := loadAs_fails hb here _
      exact ⟨s.regs, by simp only [loadRegs, read, bind, Except.bind], fun j hj => absurd hj (Nat.not_lt_zero _),
        fun _ _ => rfl⟩
    | cons x xs =>
      simp only [List.nodup_cons, List.mem_cons, not_or] at hn hq
      have here : memRead s .operandFetch .word a = some x := by simpa using hx 0 (Nat.succ_pos _)
      have read : load e a s = .ok (x, s) := loadAs_quiet hb here _
      have next : ∀ j, a + 4 + BitVec.ofNat 32 (4 * j) = a + BitVec.ofNat 32 (4 * (j + 1)) := row_succ a
      obtain ⟨g, run, loaded, others⟩ := ih (s := setReg r x s) (a := a + 4) (xs := xs) hb hn.2 hq.2
        (Nat.lt_of_succ_lt_succ hk)
        (fun j hj => by
          rw [memRead_setReg (Ne.symm hq.1), next]
          simpa using hx (j + 1) (Nat.succ_lt_succ hj))
        (by rw [memRead_setReg (Ne.symm hq.1), next]; exact h)
      refine ⟨g, by simp only [loadRegs, read, run, bind, Except.bind]; rfl, fun j hj r' hr' => ?_, fun r' hr' => ?_⟩
      · cases j with
        | zero =>
          obtain rfl : r = r' := Option.some.inj hr'
          have untouched : ∀ j, j < xs.length → rest[j]? ≠ some r := fun j _ hj => hn.1 (List.mem_of_getElem? hj)
          rw [others r untouched, reg_setReg_self (Ne.symm hq.1)]
          rfl
        | succ j => exact loaded j (Nat.lt_of_succ_lt_succ hj) r' hr'
      · have ne : r' ≠ r := fun h => hr' 0 (Nat.succ_pos _) (h ▸ rfl)
        rw [others r' fun j hj => hr' (j + 1) (Nat.succ_lt_succ hj), reg_setReg_ne ne]

/-- RESTORE %rn, whose word k is the first that cannot be read: FP's word first, then those of the registers
(43_program_control R403). -/
theorem restore_refused (hb : s.bus = []) (hr : r.saveable = true) {k : Nat} {xs : List Word}
    (hk : k < 10 - r.num.toNat) (hl : xs.length = k)
    (hx : ∀ j, j < k → memRead s .operandFetch .word (s.regs.fp - 28 + BitVec.ofNat 32 (4 * j)) = xs[j]?)
    (h : memRead s .operandFetch .word (s.regs.fp - 28 + BitVec.ofNat 32 (4 * k)) = none) :
    ∃ g, exec (.restore { mode := .register r }) s = .next (fault .externalMemory { s with regs := g }) ∧
      (∀ j, j + 1 < k → readReg (Reg.ofNum (r.num + BitVec.ofNat 4 j)) g = xs.getD (j + 1) 0) ∧
      ∀ r', (∀ j, j + 1 < k → r' ≠ Reg.ofNum (r.num + BitVec.ofNat 4 j)) → readReg r' g = reg s r' := by
  have run : exec (.restore { mode := .register r }) s = conclude (load .externalMemory (s.regs.fp - 28) s >>= fun y =>
      loadRegs .externalMemory (s.regs.fp - 28 + 4) (generalRegs.drop r.num.toNat) y.2 >>= fun t =>
        .ok (complete false (advance 2 (setReg .fp y.1 (setReg .sp (s.regs.fp - 28) t))))) := by
    show execRestore { mode := .register r } s = _
    simp only [execRestore, checkOperands_regList r, savedRegs_register hr]
    rfl
  subst hl
  cases xs with
  | nil =>
    have here : memRead s .operandFetch .word (s.regs.fp - 28) = none := by simpa using h
    exact ⟨s.regs, run.trans (conclude_fails (loadAs_fails hb here _) _), nofun, fun _ _ => rfl⟩
  | cons x xs =>
    have here : memRead s .operandFetch .word (s.regs.fp - 28) = some x := by simpa using hx 0 (Nat.succ_pos _)
    have sub : ∀ r', r' ∈ generalRegs.drop r.num.toNat → r' ∈ generalRegs := fun _ => List.mem_of_mem_drop
    have at_j : ∀ j, j < xs.length →
        (generalRegs.drop r.num.toNat)[j]? = some (Reg.ofNum (r.num + BitVec.ofNat 4 j)) := fun j hj =>
      generalRegs_getElem (by simp only [List.length_cons] at hk; omega)
    obtain ⟨g, loads, loaded, others⟩ := loadRegs_refused (e := .externalMemory) (a := s.regs.fp - 28 + 4) (xs := xs)
      (rs := generalRegs.drop r.num.toNat) hb ((List.drop_sublist _ _).nodup (by decide))
      (fun h => absurd (sub _ h) (by decide))
      (by simp only [List.length_cons] at hk; simp only [List.length_drop, generalRegs, List.length_cons, List.length_nil]; omega)
      (fun j hj => by rw [row_succ]; simpa using hx (j + 1) (Nat.succ_lt_succ hj))
      (by rw [row_succ]; exact h)
    refine ⟨g, run.trans ((conclude_reads (loadAs_quiet hb here _) _).trans (conclude_fails loads _)), fun j hj => ?_,
      fun r' hr' => ?_⟩
    · have hj := Nat.lt_of_succ_lt_succ hj
      exact loaded j hj _ (at_j j hj)
    · refine others r' fun j hj he => hr' j (Nat.succ_lt_succ hj) ?_
      exact Option.some.inj (he.symm.trans (at_j j hj))

end

end Sys2Proof.Machine
end

section
/-! The obligation on the memory exceptions of the ordinary instructions, from what each family leaves. -/

namespace Sys2Proof.Machine

/-- SAVE %rn, whose word k is the first that cannot be stored: the words before it are in their places. -/
theorem save_landed {s : State} (hi : s.Inv) (hb : s.bus = []) {r : Reg} (hr : r.saveable = true) {words : List Word}
    (hwords : words = s.regs.fp ::
      (List.range (9 - r.num.toNat)).map fun i => reg s (Reg.ofNum (r.num + BitVec.ofNat 4 i)))
    {k : Nat} {qs : List Reached} (hk : k < 10 - r.num.toNat) (hl : qs.length = k)
    (reached : ∀ j, j < k → writeReach s .write .word (s.regs.sp + BitVec.ofNat 32 (4 * j)) (words.getD j 0) = qs[j]?)
    (refused : writeReach s .write .word (s.regs.sp + BitVec.ofNat 32 (4 * k)) (words.getD k 0) = none) :
    exec (.save { mode := .register r }) s = .next (fault .externalMemory { s with mem := landed s.mem words qs }) ∧
      (∀ x, (∀ a, .memory a ∈ qs → ¬covers .word a x) → peek (landed s.mem words qs) x = peek s.mem x) ∧
      ((∀ j, j < k → writeReach s .write .word (s.regs.sp + BitVec.ofNat 32 (4 * j)) (words.getD j 0) =
          some (.memory (s.regs.sp + BitVec.ofNat 32 (4 * j)))) →
        ∀ j, j < k → readData (landed s.mem words qs) .word (s.regs.sp + BitVec.ofNat 32 (4 * j)) = words.getD j 0) := by
  subst hl
  have length : words.length = 10 - r.num.toNat := by
    rw [hwords, List.length_cons, List.length_map, List.length_range]
    omega
  have shorter : qs.length < words.length := by omega
  have general : words = s.regs.fp :: (generalRegs.drop r.num.toNat).map fun r => reg s r := by
    rw [hwords, generalRegs_drop, List.map_map]
    rfl
  exact ⟨save_refused hb hr general shorter reached refused, fun x hx => peek_landed hi.1 words hx,
    fun places => readData_landed hi.1 (Nat.le_of_lt shorter) (by omega)
      fun j hj => (reached j hj).symm.trans (places j hj)⟩

/-- Settles O19. -/
theorem movesReportMemoryFaults : Obligations.MovesReportMemoryFaults := by
  unfold Obligations.MovesReportMemoryFaults
  refine ⟨?reads, ?refused, ?unwritten, fun o s t e h => ?addresses, fun s hi hb => ?singly⟩
  case reads =>
    exact ⟨fun e he a d s => (copyForms_operate e he a).fails d s, fun e he a d s => (updateForms_operate e he a).fails d s,
      fun e he a b d s => (tripleForms_operate e he a b).fails d s, fun e he d s => (unaryForms_operate e he).fails d s,
      fun e he a b c d s => (fieldForms_operate e he a b c).fails d s, flagForms_fail, testForms_fail⟩
  case refused =>
    have alike {c : Operand → Instr} {cur : OType} {divides read : Bool} {sources : List Operand}
        (h : Operates c cur divides sources read) (dst : Operand) (s : State) (answers : List Reply) (vs : List Value)
        (a : Word) := @Operates.refused c cur divides read sources dst s vs a
          { s with inputs := { s.inputs with replies := answers } } h
    refine ⟨?copy, ?update, ?triple, ?unary, ?field⟩
    case copy =>
      intro e he a d s answers vs p s' t hi hb
      exact alike (copyForms_operate e he a) d s answers vs p hi hi hb rfl rfl
    case update =>
      intro e he a d s answers vs p s' t hi hb
      exact alike (updateForms_operate e he a) d s answers vs p hi hi hb rfl rfl
    case triple =>
      intro e he a b d s answers vs p s' t hi hb
      exact alike (tripleForms_operate e he a b) d s answers vs p hi hi hb rfl rfl
    case unary =>
      intro e he d s answers vs p s' t hi hb
      exact alike (unaryForms_operate e he) d s answers vs p hi hi hb rfl rfl
    case field =>
      intro e he a b c d s answers vs p s' t hi hb
      exact alike (fieldForms_operate e he a b c) d s answers vs p hi hi hb rfl rfl
  case unwritten =>
    exact ⟨fun e he a d s vs p hi hb => (copyForms_operate e he a).unwritten hi hb,
      fun e he a b d s vs p hi hb => (tripleForms_operate e he a b).unwritten hi hb,
      fun e he hr d s vs p hi hb => (hr ▸ unaryForms_operate e he).unwritten hi hb,
      fun e he hr a b c d s vs p hi hb => (hr ▸ fieldForms_operate e he a b c).unwritten hi hb⟩
  case addresses =>
    exact ⟨fun i hi wf => plainAddress_fails h wf i hi, jmp_fails h,
      fun i hi d wf wd permitted => addressMove_fails h wf wd permitted i hi, fun d wf wd => call_fails h wf wd,
      fun d a wd wf ha => call_fails_second ha h wd wf⟩
  case singly =>
    intro faults flagged wordFlagsOf
    refine ⟨fun src dst a ha wd permitted => ?moves, fun src wf => ⟨fun e t h => pushw_unread wf h, fun v hv h =>
      pushw_unwritten hb wf hv h⟩, fun src a ha => ⟨pushaw_unwritten hb ha, jsb_unwritten hb ha⟩,
      fun d h => bsbb_unwritten hb h d, fun d h => bsbh_unwritten hb h d,
      fun dst wf permitted => ⟨fun e t h => popw_unresolved wf permitted h, fun p hp => ⟨popw_unread hb wf permitted hp, ?pop⟩⟩,
      fun src dst a b ha hd => ⟨call_unwritten ha hd hb, fun q hq h => call_halfWritten ha hd hi hb hq h⟩,
      fun r hr => ⟨fun k qs hk hl reached refused => save_landed hi hb hr rfl hk hl reached refused,
        fun k xs hk hl hx h => restore_refused hb hr hk hl hx h⟩,
      fun e he dst a ha => ?swaps, movblw_refused hb, strcpy_refused hb, strend_refused hb⟩
    case moves =>
      refine ⟨fun e u h => ⟨movaw_unresolved ha wd permitted h, fun hr => movtrw_unresolved hb ha wd permitted hr h⟩,
        movtrw_unread hb ha wd permitted, fun b unwritable => ?_⟩
      obtain ⟨hr, hw⟩ := unwritable
      exact ⟨movaw_unwritten hr hw hb ha wd permitted, fun q hq => movtrw_unwritten (q := .memory q) hr hw hb ha wd permitted hq,
        fun v hv => movtrw_unwritten (q := .device v) hr hw hb ha wd permitted hv⟩
    case pop =>
      rintro a x rfl hx h
      exact popw_unwritten hb wf permitted hp hx h
    case swaps =>
      obtain ⟨-, run⟩ := runs_swaps e he dst
      exact ⟨fun h => (run s).trans (swapShape_unread hb ha h), fun x hx h => (run s).trans (swapShape_unwritten hb ha hx h)⟩

end Sys2Proof.Machine
end
